-- ==== Sys2Proof/Word.lean ====
section
/-! DEFINITION. The word types of R2FFT (00_scope.md R8, R12): the 64-bit host word, the binary64 pattern `F64`, the
complex sample `C64`, and the names of the memories that hold 64-bit words (10_state.md R36). -/

namespace Sys2Proof

/-- One host word: 64 bits (R8, R60). -/
abbrev Word := BitVec 64

/-- A 64-bit pattern read as a binary64 value (R12, R110). -/
abbrev F64 := BitVec 64

/-- A `u32`, the width of the scalar integers (R12, R26). -/
abbrev U32 := BitVec 32

/-- A host word address: 17 bits (R60). -/
abbrev Addr := BitVec 17

/-- "Complex Sample: a pair (real, imaginary) of double-precision values" (R12). -/
structure C64 where
  re : F64
  im : F64
deriving DecidableEq, Repr, Inhabited

/-- The finite binary64 values, field by field: an exponent field below 2047 is what R110 calls finite.
The type of what the trigonometric kernel returns (R140: the result on a finite input is finite). -/
structure FiniteF64 where
  sign : Bool
  exponent : Fin 2047
  fraction : BitVec 52
deriving DecidableEq, Repr, Inhabited

/-- The memories of 64-bit words (R36). `OF`, whose entries are `u32`, is held apart. -/
inductive MemName where
  | xa | xb | y | s | w | om
deriving DecidableEq, Repr

/-- The five window kinds, in the order of the document's list (R94). -/
inductive WindowKind where
  | hamming | hann | blackman | bartlett | flatTop
deriving DecidableEq, Repr

end Sys2Proof
end

