-- ==== Sys2Proof/Syntax.lean ====
section
/-! DEFINITION. The commands of R2FFT: one constructor per row of spec/opcode_table.json (30_encoding.md R93).
A command takes its operands from registers; the only operand in the word is the 8-bit field `a` of the three commands
of format `CA` (R91, R92). -/

namespace Sys2Proof

inductive Instr where
  /-- R290 -/
  | nop
  /-- R151 -/
  | sin
  /-- R152 -/
  | cos
  /-- R203 -/
  | cmul
  /-- R162 -/
  | brev
  /-- R163 -/
  | brevn
  /-- R164 -/
  | reorder
  /-- R185 -/
  | twld
  /-- R204; `a` is the stage index, any byte (R96) -/
  | stage (a : BitVec 8)
  /-- R206 -/
  | fft
  /-- R207 -/
  | revcopy
  /-- R208 -/
  | scale
  /-- R209 -/
  | ifft
  /-- R210 -/
  | cmulv
  /-- R211 -/
  | xchg
  /-- R212 -/
  | conv
  /-- R247; `a` is the window kind code, legal 0 to 4 (R94) -/
  | wgen (a : BitVec 8)
  /-- R250 -/
  | wapply
  /-- R258 -/
  | resolve
  /-- R259 -/
  | asblock
  /-- R270 -/
  | lift
  /-- R272 -/
  | mag
  /-- R277; `a` is the flag `w`, legal 0 or 1 (R92) -/
  | analyze (a : BitVec 8)
deriving DecidableEq, Repr

end Sys2Proof
end

