-- ==== Sys2Proof/WellFormed.lean ====
section
/-! DEFINITION. Which terms of `Instr` are commands: the legal values of the field `a` (30_encoding.md R93, R95, R96). -/

namespace Sys2Proof

/-- What is wrong with a term (R95). -/
inductive Ill where
  /-- `WGEN` with `a > 4`: a reserved window kind (R94, R95). -/
  | windowKind
  /-- `ANALYZE` with `a > 1` (R92, R95). -/
  | analyzeFlag
deriving DecidableEq, Repr

/-- The first check a term fails, if any. `STAGE` takes every `a` (R96); the other commands have no operand. -/
def Instr.illFormed : Instr → Option Ill
  | .nop | .sin | .cos | .cmul | .brev | .brevn | .reorder | .twld | .stage _ | .fft | .revcopy | .scale | .ifft
  | .cmulv | .xchg | .conv | .wapply | .resolve | .asblock | .lift | .mag => none
  | .wgen a => if a.toNat ≤ 4 then none else some .windowKind
  | .analyze a => if a.toNat ≤ 1 then none else some .analyzeFlag

/-- A well-formed command. -/
abbrev Instr.wellFormed (i : Instr) : Prop := i.illFormed = none

end Sys2Proof
end

