-- ==== Sys2Proof/Decode.lean ====
section
/-! DEFINITION. The command word (30_encoding.md R90 to R98): its fields, the opcode map, the decoder (total on every
32-bit word, rejecting by name) and the encoder. -/

namespace Sys2Proof

/-- `op = c[7:0]` (R91). -/
def opField (c : BitVec 32) : BitVec 8 := c.extractLsb' 0 8

/-- `a = c[15:8]`, the only immediate (R91, R92). -/
def aField (c : BitVec 32) : BitVec 8 := c.extractLsb' 8 8

/-- `rsv = c[31:16]`, must be zero (R91). -/
def rsvField (c : BitVec 32) : BitVec 16 := c.extractLsb' 16 16

/-- The two formats (R91): in `c0` the field `a` must be zero, in `ca` it is an operand. -/
inductive Format where
  | c0 | ca
deriving DecidableEq, Repr

/-- One row of the opcode map (R93). -/
structure OpRow where
  op : BitVec 8
  format : Format
  build : BitVec 8 → Instr

/-- The opcode map (R93), in its order. -/
def opcodeMap : List OpRow :=
  [⟨0x00, .c0, fun _ => .nop⟩, ⟨0x01, .c0, fun _ => .sin⟩, ⟨0x02, .c0, fun _ => .cos⟩, ⟨0x03, .c0, fun _ => .cmul⟩,
   ⟨0x08, .c0, fun _ => .brev⟩, ⟨0x09, .c0, fun _ => .brevn⟩, ⟨0x0A, .c0, fun _ => .reorder⟩] ++
  [⟨0x10, .c0, fun _ => .twld⟩, ⟨0x18, .ca, .stage⟩, ⟨0x19, .c0, fun _ => .fft⟩, ⟨0x1A, .c0, fun _ => .revcopy⟩,
   ⟨0x1B, .c0, fun _ => .scale⟩, ⟨0x1C, .c0, fun _ => .ifft⟩, ⟨0x1D, .c0, fun _ => .cmulv⟩,
   ⟨0x1E, .c0, fun _ => .xchg⟩, ⟨0x1F, .c0, fun _ => .conv⟩] ++
  [⟨0x20, .ca, .wgen⟩, ⟨0x21, .c0, fun _ => .wapply⟩, ⟨0x22, .c0, fun _ => .resolve⟩,
   ⟨0x23, .c0, fun _ => .asblock⟩, ⟨0x28, .c0, fun _ => .lift⟩, ⟨0x29, .c0, fun _ => .mag⟩, ⟨0x2A, .ca, .analyze⟩]

/-- Why a command word is illegal (R95), in the order of R98. -/
inductive DecodeError where
  /-- `c[31:16] != 0` -/
  | reservedBits
  /-- `op` is none of the 23 codes -/
  | unusedCode
  /-- format `C0` and `a != 0` -/
  | operandNotZero
  /-- `WGEN` with `a > 4` -/
  | windowKind
  /-- `ANALYZE` with `a > 1` -/
  | analyzeFlag
deriving DecidableEq, Repr

/-- The decoder, in the check order of R98. -/
def decode (c : BitVec 32) : Except DecodeError Instr :=
  if rsvField c ≠ 0 then .error .reservedBits
  else
    match opcodeMap.find? (fun r => r.op = opField c) with
    | none => .error .unusedCode
    | some r =>
      if r.format = .c0 ∧ aField c ≠ 0 then .error .operandNotZero
      else
        match (r.build (aField c)).illFormed with
        | some .windowKind => .error .windowKind
        | some .analyzeFlag => .error .analyzeFlag
        | none => .ok (r.build (aField c))

/-- A command word from its fields: `rsv = 0`, then `a`, then `op` (R91). -/
def commandWord (op a : BitVec 8) : BitVec 32 := (0#16 ++ a ++ op)

/-- The encoder (R93): the word whose write to `CMD` is the command. -/
def encode : Instr → BitVec 32
  | .nop => commandWord 0x00 0
  | .sin => commandWord 0x01 0
  | .cos => commandWord 0x02 0
  | .cmul => commandWord 0x03 0
  | .brev => commandWord 0x08 0
  | .brevn => commandWord 0x09 0
  | .reorder => commandWord 0x0A 0
  | .twld => commandWord 0x10 0
  | .stage a => commandWord 0x18 a
  | .fft => commandWord 0x19 0
  | .revcopy => commandWord 0x1A 0
  | .scale => commandWord 0x1B 0
  | .ifft => commandWord 0x1C 0
  | .cmulv => commandWord 0x1D 0
  | .xchg => commandWord 0x1E 0
  | .conv => commandWord 0x1F 0
  | .wgen a => commandWord 0x20 a
  | .wapply => commandWord 0x21 0
  | .resolve => commandWord 0x22 0
  | .asblock => commandWord 0x23 0
  | .lift => commandWord 0x28 0
  | .mag => commandWord 0x29 0
  | .analyze a => commandWord 0x2A a

/-- The command word that a row of the opcode table with `nbits` bits and the bits `w` stands for. -/
def tableWord (nbits w : Nat) : BitVec 32 := BitVec.ofNat 32 (w % 2 ^ nbits)

/-- What the decoder reads from a table word (log entry 5). -/
def decodeTableWord (nbits w : Nat) : Option Instr :=
  match decode (tableWord nbits w) with
  | .ok i => some i
  | .error _ => none

end Sys2Proof
end

