-- ==== Sys2Proof/Config.lean ====
section
/-! DEFINITION. What the block's implementation fixes (00_scope.md R8) and the free values the spec leaves open.
An `opaque` constant here has no body: nothing is provable about its value, so a claim holds whatever it is. -/

namespace Sys2Proof.Config

/-- Exponent of the largest transform length (R8). -/
def kMax : Nat := 13

/-- Exponent of the smallest transform length (R8). -/
def kMin : Nat := 1

/-- Entries of each complex working buffer, of `Y`, `S`, `W` and `TW` (R8, R36). -/
def nMax : Nat := 8192

/-- Entries of `OM` and `OF` (R36). -/
def outMax : Nat := 4096

/-- The Supported Block Size Set, ascending (R8, R17, R258). -/
def blockSizes : List Nat := [8, 16, 32, 64, 128, 256, 512, 1024, 2048, 4096, 8192]

/-- How many 64-bit words a memory has: two a complex entry, one a real entry (R36). -/
def memWords : MemName → Nat
  | .xa | .xb | .y => 2 * nMax
  | .s | .w => nMax
  | .om => outMax

/-- The configuration function behind `SIN` (R8, R140; log entry 3): its values on magnitudes, free but for being finite. -/
opaque sinKernel : F64 → FiniteF64

/-- The configuration function behind `COS` (R8, R140; log entry 3). -/
opaque cosKernel : F64 → FiniteF64

/-- "any value" (R149; log entry 4): the `n`-th result of `SIN` or `COS` on a non-finite operand. -/
opaque anyTrig : Nat → F64

/-- The unspecified stable pattern that word `k` of memory `m` holds after the `n`-th reset, until it is written
(R41; log entry 2). -/
opaque powerOn : Nat → MemName → Nat → Word

/-- The same for entry `k` of `OF` (R41; log entry 2). -/
opaque powerOnOF : Nat → Nat → U32

end Sys2Proof.Config
end

