-- ==== Sys2Proof/Machine/State.lean ====
section
/-! DEFINITION. The whole state of R2FFT (10_state.md), plain data; the state after reset; the reasons a step can stop. -/

namespace Sys2Proof.Machine

/-- The outcome a command leaves in `STATUS.ERR` (60_exceptions.md R300). Codes 5 to 15 are never produced. -/
inductive Err where
  | ok
  /-- 1: the word is no command (R301) -/
  | illegal
  /-- 2: the command uses N and `LOG2N` is not 1 to 13 (R302) -/
  | length
  /-- 3: a range-checked operand is out of range (R303) -/
  | operand
  /-- 4: two lengths differ (R304) -/
  | mismatch
deriving DecidableEq, Repr

/-- One action of the host on the block: a word read, a word write (R10, R63, R64), or the external reset applied between
two accesses (R330). -/
inductive HostAction where
  | read (a : Addr)
  | write (a : Addr) (v : Word)
  | reset
deriving DecidableEq, Repr

/-- The host's side of the port: what it has yet to do, oldest first, and the words its reads returned, oldest first.
The model's own fields (log entries 5 and 6). -/
structure HostPort where
  pending : List HostAction
  returned : List Word
deriving DecidableEq, Repr

/-- A memory: its written entries by index (log entries 1 and 2). An index not listed holds no written value. -/
abbrev Memory (α : Type) := List (Nat × α)

/-- Indices strictly rising, from `lo` on and below `size`. -/
def Memory.risingFrom {α : Type} (lo size : Nat) : Memory α → Bool
  | [] => true
  | (k, _) :: m => decide (lo ≤ k) && decide (k < size) && Memory.risingFrom (k + 1) size m

/-- The canonical form: indices strictly rising, all below the memory's size. Since an unlisted index has no written value
at all, no entry can equal what an unlisted index reads as, and equal contents are equal lists. -/
def Memory.wf {α : Type} (size : Nat) (m : Memory α) : Bool := Memory.risingFrom 0 size m

/-- The state (R20 to R36). `STATUS` is the view `Machine.statusWord` of `err` and `sel` (R25). A complex memory holds its
words: entry `i` is words `2i` (real) and `2i + 1` (imaginary) (R62). -/
structure State where
  cmd : BitVec 32
  err : Err
  sel : Bool
  log2n : BitVec 4
  ylog2n : BitVec 4
  srate : BitVec 32
  wlen : BitVec 14
  olen : BitVec 12
  arg0 : U32
  arg1 : U32
  res : U32
  fa0 : F64
  fa1 : F64
  fb0 : F64
  fb1 : F64
  fr0 : F64
  fr1 : F64
  memXA : Memory Word
  memXB : Memory Word
  memY : Memory Word
  memS : Memory Word
  memW : Memory Word
  memOM : Memory Word
  memOF : Memory U32
  /-- the model's own: free values handed out so far (R149; log entry 4) -/
  freeCount : Nat
  /-- the model's own: resets applied so far (R330, R41; log entry 8) -/
  resets : Nat
  /-- the model's own: the host's side of the port -/
  port : HostPort
deriving DecidableEq, Repr

/-- After reset (R40, R330): every register zero, no memory word written (R41), and no host action yet. -/
def State.reset : State where
  cmd := 0
  err := .ok
  sel := false
  log2n := 0
  ylog2n := 0
  srate := 0
  wlen := 0
  olen := 0
  arg0 := 0
  arg1 := 0
  res := 0
  fa0 := 0
  fa1 := 0
  fb0 := 0
  fb1 := 0
  fr0 := 0
  fr1 := 0
  memXA := []
  memXB := []
  memY := []
  memS := []
  memW := []
  memOM := []
  memOF := []
  freeCount := 0
  resets := 0
  port := ⟨[], []⟩

/-- The block has no state in which it stops: every command terminates with a next state (R305, R344), and command errors are
next states (R310). No one raises a fault. -/
inductive Fault where
deriving DecidableEq, Repr

/-- The actions the model gives no meaning. -/
inductive Refusal where
  /-- an instruction not modelled yet: no arm of `exec` answers it now; safe -/
  | notModelled (mnemonic : String)
  /-- `hostRead`: a read of an unmapped word, a bus error (R66): "A model gives such an access no meaning: it refuses it."; safe -/
  | busErrorUnmappedRead (a : Addr)
  /-- `hostWrite`: a write of an unmapped word, a bus error (R66); safe -/
  | busErrorUnmappedWrite (a : Addr)
  /-- `hostWrite`: a write of a read-only location, a bus error (R66); safe -/
  | busErrorReadOnly (a : Addr)
deriving DecidableEq, Repr

end Sys2Proof.Machine
end

