-- ==== Sys2Proof/Machine/Float.lean ====
section
/-! DEFINITION. The binary64 primitives (40_numerics.md R110 to R120). A finite magnitude is held exactly as a natural number
of units of 2^-1074, the smallest subnormal; an exact result is a fraction of such units, rounded once. -/

namespace Sys2Proof.Machine

/-- `sign = v[63]` (R110). -/
def signBit (a : F64) : Bool := a.getLsbD 63

/-- `exp = v[62:52]` (R110). -/
def expField (a : F64) : Nat := a.toNat / 2 ^ 52 % 2 ^ 11

/-- `frac = v[51:0]` (R110). -/
def fracField (a : F64) : Nat := a.toNat % 2 ^ 52

/-- `exp = 2047, frac != 0` (R110). -/
def isNaN (a : F64) : Bool := expField a == 2047 && fracField a != 0

/-- `exp = 2047, frac = 0` (R110). -/
def isInf (a : F64) : Bool := expField a == 2047 && fracField a == 0

/-- "finite when `exp != 2047`" (R110). -/
def isFinite (a : F64) : Bool := expField a != 2047

/-- A zero of either sign (R110). -/
def isZero (a : F64) : Bool := expField a == 0 && fracField a == 0

/-- The magnitude of a finite value in units of 2^-1074: `frac` when `exp = 0`, else `(2^52 + frac) · 2^(exp-1)` (R110). -/
def magnitude (a : F64) : Nat :=
  if expField a = 0 then fracField a else (2 ^ 52 + fracField a) <<< (expField a - 1)

/-- 1.0 in units of 2^-1074. -/
def unitOne : Nat := 2 ^ 1074

/-- The signed value of a finite pattern in units of 2^-1074. -/
def signedUnits (a : F64) : Int := if signBit a then -(magnitude a : Int) else (magnitude a : Int)

def posZero : F64 := 0x0000000000000000
def negZero : F64 := 0x8000000000000000
def posInf : F64 := 0x7FF0000000000000
def negInf : F64 := 0xFFF0000000000000

/-- "the canonical quiet NaN `0x7FF8000000000000`" (R117). -/
def qNaN : F64 := 0x7FF8000000000000

/-- The pattern of `+Inf` as a number; every magnitude pattern above it is an overflow. -/
def infPattern : Nat := 2047 * 2 ^ 52

/-- The integer nearest to `n / d`, ties to the even one (R111). -/
def nearestEven (n d : Nat) : Nat :=
  let q := n / d
  let r := n % d
  if d < 2 * r ∨ (2 * r = d ∧ q % 2 = 1) then q + 1 else q

/-- The exponent of the grid a magnitude of `v` units is rounded to: `2^t` units, 53 significant bits, or the subnormal grid
`t = 0` (R111: gradual underflow). -/
def gridExponent (v : Nat) : Nat := v.log2 - 52

/-- The pattern of `q` grid steps of `2^t` units: exponent and fraction fields as one number, so that a carry out of the
fraction moves to the next exponent; from `2^1024 - 2^970` on it is the infinity (R111). -/
def gridPattern (t q : Nat) : Nat := min (t * 2 ^ 52 + q) infPattern

/-- Round `n / d` units once, to nearest, ties to even (R111): the pattern without its sign. -/
def roundUnits (n d : Nat) : Nat :=
  let t := gridExponent (n / d)
  gridPattern t (nearestEven n (d <<< t))

/-- A sign and a magnitude pattern put together. -/
def withSign (neg : Bool) (p : Nat) : F64 := BitVec.ofNat 64 (if neg then 2 ^ 63 + p else p)

/-- `fneg(a)` flips bit 63 (R116). -/
def fneg (a : F64) : F64 := a ^^^ 0x8000000000000000

/-- `fabs(a)` clears bit 63 (R116). -/
def fabs (a : F64) : F64 := a &&& 0x7FFFFFFFFFFFFFFF

/-- `fadd(a, b)` (R111, R112, R117). -/
def fadd (a b : F64) : F64 :=
  if isNaN a || isNaN b then qNaN
  else if isInf a then (if isInf b && (signBit a != signBit b) then qNaN else a)
  else if isInf b then b
  else
    let x := signedUnits a + signedUnits b
    if x = 0 then (if signBit a && signBit b then negZero else posZero)
    else withSign (decide (x < 0)) (roundUnits x.natAbs 1)

/-- `fsub(a, b) = fadd(a, fneg(b))` (R112); a NaN operand stays a NaN. -/
def fsub (a b : F64) : F64 := fadd a (fneg b)

/-- `fmul(a, b)` (R111, R113, R117). -/
def fmul (a b : F64) : F64 :=
  let neg := signBit a != signBit b
  if isNaN a || isNaN b then qNaN
  else if isInf a || isInf b then
    if isZero a || isZero b then qNaN else withSign neg infPattern
  else withSign neg (roundUnits (magnitude a * magnitude b) unitOne)

/-- `fdiv(a, b)` (R111, R114, R117). -/
def fdiv (a b : F64) : F64 :=
  let neg := signBit a != signBit b
  if isNaN a || isNaN b then qNaN
  else if isInf a then (if isInf b then qNaN else withSign neg infPattern)
  else if isInf b then withSign neg 0
  else if isZero b then (if isZero a then qNaN else withSign neg infPattern)
  else withSign neg (roundUnits (magnitude a * unitOne) (magnitude b))

/-- The bits `k-1 … 0` of the integer square root of `m`, below the bits already in `r`. -/
def sqrtBits (m : Nat) : Nat → Nat → Nat
  | 0, r => r
  | k + 1, r => if (r + 2 ^ k) ^ 2 ≤ m then sqrtBits m k (r + 2 ^ k) else sqrtBits m k r

/-- The square root of `m` units², in units, rounded once (R111, R115): `q` is its integer part on the grid `2^t`, and it is
rounded up past the middle of the grid step. -/
def roundSqrt (m : Nat) : Nat :=
  let t := gridExponent (2 ^ (m.log2 / 2))
  let q := sqrtBits (m >>> (2 * t)) (m.log2 / 2 + 1 - t) 0
  let middle := (2 * q + 1) ^ 2 <<< (2 * t)
  gridPattern t (if middle < 4 * m ∨ (middle = 4 * m ∧ q % 2 = 1) then q + 1 else q)

/-- `fsqrt(a)` (R111, R115, R117). -/
def fsqrt (a : F64) : F64 :=
  if isNaN a then qNaN
  else if isZero a then a
  else if signBit a then qNaN
  else if isInf a then a
  else withSign false (roundSqrt (magnitude a * unitOne))

/-- `i2f(n)` (R116). -/
def i2f (n : Nat) : F64 := withSign false (roundUnits (n * unitOne) 1)

/-- The integer part of a finite value's magnitude: `trunc` of the kernel's reduction (R144). -/
def truncToNat (a : F64) : Nat := magnitude a / unitOne

/-! The constants of R119 and R120. -/

def one : F64 := 0x3FF0000000000000
def two : F64 := 0x4000000000000000
def half : F64 := 0x3FE0000000000000
def c0_54 : F64 := 0x3FE147AE147AE148
def c0_46 : F64 := 0x3FDD70A3D70A3D71
def c0_42 : F64 := 0x3FDAE147AE147AE1
def c0_08 : F64 := 0x3FB47AE147AE147B
def c0_2156 : F64 := 0x3FCB98C7E28240B8
def c0_4166 : F64 := 0x3FDAA9930BE0DED3
def c0_2773 : F64 := 0x3FD1BF487FCB923A
def c0_0836 : F64 := 0x3FB566CF41F212D7
def c0_0069 : F64 := 0x3F7C432CA57A786C
def piF : F64 := 0x400921FB54442D18
def k2 : F64 := 0x401921FB54442D18
def k4 : F64 := 0x402921FB54442D18
def k6 : F64 := 0x4032D97C7F3321D2
def k8 : F64 := 0x403921FB54442D18

end Sys2Proof.Machine
end

