-- ==== Sys2Proof/Machine/Trig.lean ====
section
/-! DEFINITION. The trigonometric unit (41_trig_kernel.md). `SIN` and `COS` are configuration functions (R8, D14) with the
properties R140 (finite on finite input), R141, R142, R143 and R150 and no other. The steps of the kernel's algorithm, as far
as the spec gives them (R144 to R148), are transcribed for an implementation that has the numbers (R154); the machine does not
call them (log entry 12). -/

namespace Sys2Proof.Machine

/-- The pattern of a finite value (R110). -/
def finitePattern (v : FiniteF64) : F64 := (BitVec.ofBool v.sign ++ BitVec.ofNat 11 v.exponent.val ++ v.fraction)

/-- `SIN(x)` for a finite `x`: `SIN(+0) = +0` (R150), else the configured value at `fabs(x)`, finite (R140), its sign flipped
when `x[63] = 1` (R142). -/
def sinF (x : F64) : F64 :=
  let r := if fabs x = posZero then posZero else finitePattern (Config.sinKernel (fabs x))
  if signBit x then fneg r else r

/-- `COS(x)` for a finite `x`: `COS(±0) = 1.0` (R150), else the configured value at `fabs(x)` (R140, R143). -/
def cosF (x : F64) : F64 :=
  if fabs x = posZero then one else finitePattern (Config.cosKernel (fabs x))

/-- The numbers of the kernel that the document does not give (R144, R147). -/
structure KernelNumbers where
  fourByPi : F64
  pa : F64
  pb : F64
  pc : F64
  sinC : F64 × F64 × F64 × F64 × F64 × F64
  cosC : F64 × F64 × F64 × F64 × F64 × F64
deriving DecidableEq, Repr

/-- The threshold `2^29` between the two reductions (R145). -/
def largeArgument : F64 := 0x41C0000000000000

/-- Horner evaluation of a 6-term coefficient set (R147). -/
def hornerPoly (c : F64 × F64 × F64 × F64 × F64 × F64) (zz : F64) : F64 :=
  let (c0, c1, c2, c3, c4, c5) := c
  fadd (fmul (fadd (fmul (fadd (fmul (fadd (fmul (fadd (fmul c0 zz) c1) zz) c2) zz) c3) zz) c4) zz) c5

/-- The reduction of a small argument (R144, R146): the quadrant, made even and taken modulo 8, and the residual angle. -/
def reduceSmall (kn : KernelNumbers) (ax : F64) : Nat × F64 :=
  let j := truncToNat (fmul ax kn.fourByPi)
  let y := i2f j
  let (j, y) := if j % 2 = 1 then (j + 1, fadd y one) else (j, y)
  (j % 8, fsub (fsub (fsub ax (fmul y kn.pa)) (fmul y kn.pb)) (fmul y kn.pc))

/-- The reduction (R144, R145). The large-argument one is not given by the spec and is the parameter `large`. DESIGN CHOICE (log
entry 20): from 2^29 on the spec does not say how R146's adjustment of an odd `j` and its modulo 8 apply, since that path has no
`y`. Here R146 is applied in `reduceSmall` only, and the `(j, z)` of `large` is taken as already adjusted: an even `j` below 8
is what `large` is meant to give, and no definition requires it. -/
def reduceArgument (kn : KernelNumbers) (large : F64 → Nat × F64) (ax : F64) : Nat × F64 :=
  if ax.toNat < largeArgument.toNat then reduceSmall kn ax else large ax

/-- The sine-type form `z + z·z²·poly_sin(z²)` (R147). -/
def sineType (kn : KernelNumbers) (z : F64) : F64 :=
  let zz := fmul z z
  fadd z (fmul (fmul z zz) (hornerPoly kn.sinC zz))

/-- The cosine-type form `1 − z²/2 + z⁴·poly_cos(z²)` (R147). -/
def cosineType (kn : KernelNumbers) (z : F64) : F64 :=
  let zz := fmul z z
  fadd (fsub one (fmul half zz)) (fmul (fmul zz zz) (hornerPoly kn.cosC zz))

/-- The kernel's sine as the algorithm describes it (R144 to R148). -/
def kernelSin (kn : KernelNumbers) (large : F64 → Nat × F64) (x : F64) : F64 :=
  let (j, z) := reduceArgument kn large (fabs x)
  let neg := signBit x != decide (3 < j)
  let j := if 3 < j then j - 4 else j
  let r := if j % 4 = 1 ∨ j % 4 = 2 then cosineType kn z else sineType kn z
  if neg then fneg r else r

/-- The kernel's cosine as the algorithm describes it (R144 to R148). -/
def kernelCos (kn : KernelNumbers) (large : F64 → Nat × F64) (x : F64) : F64 :=
  let (j, z) := reduceArgument kn large (fabs x)
  let neg := decide (3 < j)
  let j := if 3 < j then j - 4 else j
  let neg := neg != decide (1 < j)
  let r := if j % 4 = 1 ∨ j % 4 = 2 then sineType kn z else cosineType kn z
  if neg then fneg r else r

end Sys2Proof.Machine
end

