-- ==== Sys2Proof/Machine/Ops.lean ====
section
/-! DEFINITION. The named operations over memories and registers: reading and writing one entry, the working and the other
buffer, the flip, bounded loops, and the one way a command ends: with its effect, or by raising a command error. -/

namespace Sys2Proof.Machine

/-! ### One memory -/

/-- The value written at index `k`, if any. -/
def Memory.lookup {α : Type} : Memory α → Nat → Option α
  | [], _ => none
  | (a, v) :: m, k => if a = k then some v else Memory.lookup m k

/-- Write index `k`, keeping the indices rising. -/
def Memory.store {α : Type} : Memory α → Nat → α → Memory α
  | [], k, v => [(k, v)]
  | (a, w) :: m, k, v =>
    if k < a then (k, v) :: (a, w) :: m
    else if k = a then (k, v) :: m
    else (a, w) :: Memory.store m k v

/-- Write a complex entry: its real part at word `2i`, its imaginary part at word `2i + 1` (R62). -/
def Memory.storeC (m : Memory Word) (i : Nat) (c : C64) : Memory Word :=
  Memory.store (Memory.store m (2 * i) c.re) (2 * i + 1) c.im

/-- `for i in 0 .. n-1: x <- body i x` (R15). -/
def loop {σ : Type} : Nat → (Nat → σ → σ) → σ → σ
  | 0, _, x => x
  | n + 1, body, x => body n (loop n body x)

/-! ### The memories of the state -/

/-- The written words of a memory. -/
def State.mem (s : State) : MemName → Memory Word
  | .xa => s.memXA
  | .xb => s.memXB
  | .y => s.memY
  | .s => s.memS
  | .w => s.memW
  | .om => s.memOM

/-- Replace the written words of a memory. -/
def State.setMem (s : State) (n : MemName) (m : Memory Word) : State :=
  match n with
  | .xa => { s with memXA := m }
  | .xb => { s with memXB := m }
  | .y => { s with memY := m }
  | .s => { s with memS := m }
  | .w => { s with memW := m }
  | .om => { s with memOM := m }

/-- Word `k` of a memory: the last value written, else the unspecified stable pattern it has held since reset (R41). -/
def State.word (s : State) (n : MemName) (k : Nat) : Word :=
  ((s.mem n).lookup k).getD (Config.powerOn s.resets n k)

/-- `OF[j]` (R36, R41). -/
def State.freq (s : State) (j : Nat) : U32 :=
  (s.memOF.lookup j).getD (Config.powerOnOF s.resets j)

/-- Complex entry `i` of a memory (R36, R62). -/
def State.entry (s : State) (n : MemName) (i : Nat) : C64 := ⟨s.word n (2 * i), s.word n (2 * i + 1)⟩

/-- Host write of word `k` of a memory (R64). -/
def State.setWord (s : State) (n : MemName) (k : Nat) (v : Word) : State :=
  s.setMem n ((s.mem n).store k v)

/-! ### The two working buffers (R33, R34) -/

/-- The working buffer `X`: `XA` when `SEL = 0`, `XB` when `SEL = 1`. -/
def State.working (s : State) : MemName := if s.sel then .xb else .xa

/-- The other buffer `Z`. -/
def State.other (s : State) : MemName := if s.sel then .xa else .xb

/-- `X[i]`. -/
def State.x (s : State) (i : Nat) : C64 := s.entry s.working i

/-- `Z[i]`. -/
def State.z (s : State) (i : Nat) : C64 := s.entry s.other i

/-- `Y[i]`. -/
def State.yEntry (s : State) (i : Nat) : C64 := s.entry .y i

/-- `SEL <- SEL ^ 1` (R18). -/
def State.flip (s : State) : State := { s with sel := !s.sel }

/-- Write entries of the other buffer, then flip (R34): what a command that produces a permuted or combined sequence does. -/
def State.produce (s : State) (write : Memory Word → Memory Word) : State :=
  (s.setMem s.other (write (s.mem s.other))).flip

/-- Write `n` complex entries `0 .. n-1` of a memory in place, entry `i` becoming `f i` (R34). The new values are those of the
entries as they stood before the command: iteration `i` touches entry `i` only, so the order cannot be seen (R15; log entry 9). -/
def State.putEntries (s : State) (m : MemName) (n : Nat) (f : Nat → C64) : State :=
  s.setMem m (loop n (fun i mem => mem.storeC i (f i)) (s.mem m))

/-- The same for a real memory. -/
def State.putWords (s : State) (m : MemName) (n : Nat) (f : Nat → F64) : State :=
  s.setMem m (loop n (fun i mem => mem.store i (f i)) (s.mem m))

/-- The same for `OF`. -/
def State.putFreqs (s : State) (n : Nat) (f : Nat → U32) : State :=
  { s with memOF := loop n (fun i mem => mem.store i (f i)) s.memOF }

/-! ### How a command ends -/

/-- `raise Err(c)`: the taking of a command error, `STATUS.ERR <- c` and no other change (R14, R305, R310: "Trap entry"). No
state is saved and no trap return exists (R311): the next command overwrites the code. -/
def raise (e : Err) (s : State) : State := { s with err := e }

/-- A command that ends without `raise` sets `STATUS.ERR <- 0` (R14). -/
def succeed (s : State) : State := { s with err := .ok }

/-- A command: the first check that fails raises its error before any state write; otherwise the effect, then `ERR <- 0` (R14,
R98, R305). -/
def perform (failed : Option Err) (effect : State → State) (s : State) : Host.Outcome State Fault Refusal :=
  match failed with
  | some e => .next (raise e s)
  | none => .next (succeed (effect s))

/-- Take the next free value (R149; log entry 4): the counter advances, so that no two evaluations need agree. -/
def State.takeFree (s : State) : F64 × State :=
  (Config.anyTrig s.freeCount, { s with freeCount := s.freeCount + 1 })

/-- The external reset (R330, R40, R41): registers to their reset values, memory words unspecified again. What the host has
yet to do and has read is the host's (log entry 8). -/
def applyReset (s : State) : State :=
  { State.reset with resets := s.resets + 1, freeCount := s.freeCount, port := s.port }

end Sys2Proof.Machine
end

