-- ==== Sys2Proof/Machine/Flags.lean ====
section
/-! DEFINITION. The one flag field, `STATUS.ERR` (10_state.md R25): its codes, the `STATUS` word, and the checks that decide
which code a command leaves (30_encoding.md R98; 60_exceptions.md R300 to R307). -/

namespace Sys2Proof.Machine

/-- The error codes (R300). -/
def errCode : Err → BitVec 4
  | .ok => 0
  | .illegal => 1
  | .length => 2
  | .operand => 3
  | .mismatch => 4

/-- `STATUS`: `ERR` in bits 3:0, `SEL` in bit 4, bits 31:5 zero (R25). -/
def statusWord (s : State) : BitVec 32 := (0#27 ++ BitVec.ofBool s.sel ++ errCode s.err)

/-- `N = 2^LOG2N` (R16). -/
def State.len (s : State) : Nat := 2 ^ s.log2n.toNat

/-- `valid_len`: `1 <= LOG2N <= 13` (R16). -/
def State.validLen (s : State) : Bool := decide (Config.kMin ≤ s.log2n.toNat) && decide (s.log2n.toNat ≤ Config.kMax)

/-- The first of two checks that fails (R98, R307). -/
def thenCheck (first second : Option Err) : Option Err :=
  match first with
  | some e => some e
  | none => second

/-- A check that raises `e` when `bad` holds. -/
def failIf (bad : Bool) (e : Err) : Option Err := if bad then some e else none

/-- "if command uses N and not valid_len: raise Err(LENGTH)" (R98, R302). -/
def checkLength (s : State) : Option Err := failIf (!s.validLen) .length

/-- `STAGE` with `a = 0` or `a > LOG2N` (R303, R204). -/
def checkStage (a : BitVec 8) (s : State) : Option Err :=
  failIf (decide (a.toNat = 0) || decide (s.log2n.toNat < a.toNat)) .operand

/-- `BREVN` with `ARG1 > 32` (R303, R163). -/
def checkBrevn (s : State) : Option Err := failIf (decide (32 < s.arg1.toNat)) .operand

/-- `WGEN` with `ARG0 > 8192` (R303, R247). -/
def checkWindowLength (s : State) : Option Err := failIf (decide (Config.nMax < s.arg0.toNat)) .operand

/-- `TWLD` with `ARG0 >= N` (R303, R185). -/
def checkTwiddleIndex (s : State) : Option Err := failIf (decide (s.len ≤ s.arg0.toNat)) .operand

/-- `YLOG2N != LOG2N` (R304). -/
def checkOperandLength (s : State) : Option Err := failIf (s.ylog2n != s.log2n) .mismatch

/-- `WLEN != N` (R304). -/
def checkWindowMatch (s : State) : Option Err := failIf (s.wlen.toNat != s.len) .mismatch

end Sys2Proof.Machine
end

