-- ==== Sys2Proof/Machine/Operands.lean ====
section
/-! DEFINITION. Every way an operand is named: the complex arithmetic on entries (44_transform.md R200 to R202), the twiddle
table (43_twiddle_rom.md R181 to R183), and the host's word addresses with their registers, windows and access rights
(10_state.md R22, R24; 20_memory.md R61 to R66). -/

namespace Sys2Proof.Machine

/-! ### Complex arithmetic -/

/-- `cadd` (R200). -/
def cadd (x y : C64) : C64 := ⟨fadd x.re y.re, fadd x.im y.im⟩

/-- `csub` (R201). -/
def csub (x y : C64) : C64 := ⟨fsub x.re y.re, fsub x.im y.im⟩

/-- `cmul` (R202). -/
def cmul (x y : C64) : C64 :=
  ⟨fsub (fmul x.re y.re) (fmul x.im y.im), fadd (fmul x.re y.im) (fmul x.im y.re)⟩

/-! ### The twiddle table -/

/-- The argument `v_j` (R182). -/
def twiddleArg (j : Nat) : F64 := fdiv (fmul (fneg k2) (i2f j)) (i2f 8192)

/-- `TW[j] = (COS(v_j), SIN(v_j))` (R181), a constant of the block (R42). -/
def tw (j : Nat) : C64 := ⟨cosF (twiddleArg j), sinF (twiddleArg j)⟩

/-- `T_N[n] = TW[n << (13 - k)]` for `N = 2^k` (R183). -/
def twiddle (k n : Nat) : C64 := tw (n <<< (13 - k))

/-! ### The host's addresses -/

/-- The registers (R24). -/
inductive Reg where
  | cmd | status | log2n | ylog2n | srate | wlen | olen | arg0 | arg1 | res | fa0 | fa1 | fb0 | fb1 | fr0 | fr1
deriving DecidableEq, Repr

/-- What a mapped word address names (R61): a register, word `k` of the `X` window, word `k` of a memory with an address of its
own, or an entry of `OF`. -/
inductive Location where
  | reg (r : Reg)
  | xWindow (k : Nat)
  | mem (n : MemName) (k : Nat)
  | freq (k : Nat)
deriving DecidableEq, Repr

/-- The register map (R24); the other addresses below 0x08000 hold nothing. -/
def regAt (a : Nat) : Option Reg :=
  match a with
  | 0x00 => some .cmd
  | 0x01 => some .status
  | 0x02 => some .log2n
  | 0x03 => some .ylog2n
  | 0x04 => some .srate
  | 0x05 => some .wlen
  | 0x06 => some .olen
  | 0x08 => some .arg0
  | 0x09 => some .arg1
  | 0x0A => some .res
  | 0x10 => some .fa0
  | 0x11 => some .fa1
  | 0x12 => some .fb0
  | 0x13 => some .fb1
  | 0x14 => some .fr0
  | 0x15 => some .fr1
  | _ => none

/-- The address map (R61). -/
def locate (addr : Addr) : Option Location :=
  let a := addr.toNat
  if a < 0x08000 then (regAt a).map .reg
  else if a < 0x0C000 then some (.xWindow (a - 0x08000))
  else if a < 0x10000 then some (.mem .y (a - 0x0C000))
  else if a < 0x12000 then some (.mem .s (a - 0x10000))
  else if a < 0x14000 then some (.mem .w (a - 0x12000))
  else if a < 0x15000 then some (.mem .om (a - 0x14000))
  else if a < 0x16000 then some (.freq (a - 0x15000))
  else none

/-- A register read: the value zero-extended to the host word (R21, R22). -/
def readReg (s : State) : Reg → Word
  | .cmd => s.cmd.setWidth 64
  | .status => (statusWord s).setWidth 64
  | .log2n => s.log2n.setWidth 64
  | .ylog2n => s.ylog2n.setWidth 64
  | .srate => s.srate.setWidth 64
  | .wlen => s.wlen.setWidth 64
  | .olen => s.olen.setWidth 64
  | .arg0 => s.arg0.setWidth 64
  | .arg1 => s.arg1.setWidth 64
  | .res => s.res.setWidth 64
  | .fa0 => s.fa0
  | .fa1 => s.fa1
  | .fb0 => s.fb0
  | .fb1 => s.fb1
  | .fr0 => s.fr0
  | .fr1 => s.fr1

/-- A register write: the low bits of the word (R22). `none` for the read-only registers (R24). A write of `CMD` stores the word;
that it then runs is the port's (R64, `runCommand`). -/
def writeReg (s : State) (r : Reg) (v : Word) : Option State :=
  match r with
  | .cmd => some { s with cmd := v.setWidth 32 }
  | .log2n => some { s with log2n := v.setWidth 4 }
  | .ylog2n => some { s with ylog2n := v.setWidth 4 }
  | .srate => some { s with srate := v.setWidth 32 }
  | .wlen => some { s with wlen := v.setWidth 14 }
  | .arg0 => some { s with arg0 := v.setWidth 32 }
  | .arg1 => some { s with arg1 := v.setWidth 32 }
  | .fa0 => some { s with fa0 := v }
  | .fa1 => some { s with fa1 := v }
  | .fb0 => some { s with fb0 := v }
  | .fb1 => some { s with fb1 := v }
  | .status | .olen | .res | .fr0 | .fr1 => none

/-- `MemRead(addr, 1)` of a mapped word (R63): the `X` window follows `SEL` (R61); `OF` words are zero above bit 31. -/
def readLocation (s : State) : Location → Word
  | .reg r => readReg s r
  | .xWindow k => s.word s.working k
  | .mem n k => s.word n k
  | .freq k => (s.freq k).setWidth 64

/-- `MemWrite(addr, 1, v)` of a mapped word (R64); `none` for the read-only ones (R61, R66). -/
def writeLocation (s : State) (l : Location) (v : Word) : Option State :=
  match l with
  | .reg r => writeReg s r v
  | .xWindow k => some (s.setWord s.working k v)
  | .mem .om _ => none
  | .mem n k => some (s.setWord n k v)
  | .freq _ => none

end Sys2Proof.Machine
end

