-- ==== Sys2Proof/Machine/BitReversal.lean ====
section
/-! DEFINITION. `BREV`, `BREVN`, `REORDER` (42_bit_reversal.md R160 to R168). -/

namespace Sys2Proof.Machine

/-- The loop of `brev` (R160): while `v != 0`, shift the accumulator left and take in the low bit of `v`. The first argument
bounds the number of turns; the operand's width is enough. -/
def brevLoop : Nat → Nat → Nat → Nat
  | 0, _, r => r
  | n + 1, v, r => if v = 0 then r else brevLoop n (v / 2) (2 * r + v % 2)

/-- `brev(v)` of a `u32` (R160). -/
def brev (v : Nat) : Nat := brevLoop 32 v 0

/-- The loop of `brevn` with `n` turns left: it stops early when `v = 0`, and the result is shifted by the turns left (R161). -/
def brevnLoop : Nat → Nat → Nat → Nat
  | 0, _, r => r
  | n + 1, v, r => if v = 0 then r <<< (n + 1) else brevnLoop n (v / 2) (2 * r + v % 2)

/-- `brevn(v, s)` (R161). -/
def brevn (v s : Nat) : Nat := brevnLoop s v 0

/-- `RES <- brev(ARG0)` (R162). -/
def brevEffect (s : State) : State := { s with res := BitVec.ofNat 32 (brev s.arg0.toNat) }

/-- `RES <- brevn(ARG0, ARG1)` (R163). -/
def brevnEffect (s : State) : State := { s with res := BitVec.ofNat 32 (brevn s.arg0.toNat s.arg1.toNat) }

/-- `for i in 0..N-1: Z[brevn(i, LOG2N)] <- X[i]`, then the flip (R164). -/
def reorderEffect (s : State) : State :=
  s.produce (loop s.len (fun i z => z.storeC (brevn i s.log2n.toNat) (s.x i)))

/-- `BREV` (R162). -/
def execBrev (s : State) : Host.Outcome State Fault Refusal := perform none brevEffect s

/-- `BREVN` (R163). -/
def execBrevn (s : State) : Host.Outcome State Fault Refusal := perform (checkBrevn s) brevnEffect s

/-- `REORDER` (R164). -/
def execReorder (s : State) : Host.Outcome State Fault Refusal := perform (checkLength s) reorderEffect s

end Sys2Proof.Machine
end

