-- ==== Sys2Proof/Machine/Transform.lean ====
section
/-! DEFINITION. `STAGE`, `FFT`, `REVCOPY`, `SCALE`, `IFFT`, `CMULV`, `XCHG`, `CONV` (44_transform.md R204 to R216). An
`…Effect` is "effect of" its command: the state changes without the checks and without the `STATUS` write (R206). -/

namespace Sys2Proof.Machine

/-- The direct pair combination of a stage of size 2 at block start `b` (R204, R205 b). -/
def pairButterfly (s : State) (b : Nat) (z : Memory Word) : Memory Word :=
  (z.storeC b (cadd (s.x b) (s.x (b + 1)))).storeC (b + 1) (csub (s.x b) (s.x (b + 1)))

/-- The butterfly `q` of the block at `b`, with its twiddle product taken once (R204, R205 c, d). -/
def twiddleButterfly (s : State) (half blocks b q : Nat) (z : Memory Word) : Memory Word :=
  let t := cmul (s.x (b + q + half)) (twiddle s.log2n.toNat (blocks * q))
  (z.storeC (b + q) (cadd (s.x (b + q)) t)).storeC (b + q + half) (csub (s.x (b + q)) t)

/-- One butterfly stage of size `2^a`: every block, every butterfly of a block, then the flip (R204). -/
def stageEffect (a : Nat) (s : State) : State :=
  let size := 2 ^ a
  let half := size / 2
  let blocks := s.len / size
  s.produce (loop blocks (fun i z =>
    if size = 2 then pairButterfly s (i * size) z
    else loop half (fun q z => twiddleButterfly s half blocks (i * size) q z) z))

/-- `REORDER`, then `STAGE 1 .. STAGE LOG2N` (R206). -/
def fftEffect (s : State) : State :=
  loop s.log2n.toNat (fun i t => stageEffect (i + 1) t) (reorderEffect s)

/-- `Z[0] <- X[0]`, `Z[i] <- X[N - i]`, then the flip (R207). -/
def revcopyEffect (s : State) : State :=
  s.produce (loop s.len (fun i z => z.storeC i (if i = 0 then s.x 0 else s.x (s.len - i))))

/-- Each part of `X[i]` divided by `Nf` (R208). -/
def scaleEffect (s : State) : State :=
  s.putEntries s.working s.len (fun i => ⟨fdiv (s.x i).re (i2f s.len), fdiv (s.x i).im (i2f s.len)⟩)

/-- `REVCOPY`, `FFT`, `SCALE` (R209). -/
def ifftEffect (s : State) : State := scaleEffect (fftEffect (revcopyEffect s))

/-- `X[i] <- cmul(Y[i], X[i])` (R210). -/
def cmulvEffect (s : State) : State := s.putEntries s.working s.len (fun i => cmul (s.yEntry i) (s.x i))

/-- `(X[i], Y[i]) <- (Y[i], X[i])` (R211). -/
def xchgEffect (s : State) : State :=
  (s.putEntries s.working s.len s.yEntry).putEntries .y s.len s.x

/-- `FFT`, `XCHG`, `FFT`, `CMULV`, `IFFT` (R212). -/
def convEffect (s : State) : State :=
  ifftEffect (cmulvEffect (fftEffect (xchgEffect (fftEffect s))))

/-- The checks of the commands on two sequences (R210 to R212). -/
def checkTwoSequences (s : State) : Option Err := thenCheck (checkLength s) (checkOperandLength s)

/-- `STAGE a` (R204): the length, then the stage index (R96). -/
def execStage (a : BitVec 8) (s : State) : Host.Outcome State Fault Refusal :=
  perform (thenCheck (checkLength s) (checkStage a s)) (stageEffect a.toNat) s

/-- `FFT` (R206). -/
def execFft (s : State) : Host.Outcome State Fault Refusal := perform (checkLength s) fftEffect s

/-- `REVCOPY` (R207). -/
def execRevcopy (s : State) : Host.Outcome State Fault Refusal := perform (checkLength s) revcopyEffect s

/-- `SCALE` (R208). -/
def execScale (s : State) : Host.Outcome State Fault Refusal := perform (checkLength s) scaleEffect s

/-- `IFFT` (R209). -/
def execIfft (s : State) : Host.Outcome State Fault Refusal := perform (checkLength s) ifftEffect s

/-- `CMULV` (R210). -/
def execCmulv (s : State) : Host.Outcome State Fault Refusal := perform (checkTwoSequences s) cmulvEffect s

/-- `XCHG` (R211). -/
def execXchg (s : State) : Host.Outcome State Fault Refusal := perform (checkTwoSequences s) xchgEffect s

/-- `CONV` (R212). -/
def execConv (s : State) : Host.Outcome State Fault Refusal := perform (checkTwoSequences s) convEffect s

end Sys2Proof.Machine
end

