-- ==== Sys2Proof/Machine/Window.lean ====
section
/-! DEFINITION. `WGEN`, `WAPPLY`, `RESOLVE`, `ASBLOCK` (45_window.md R240 to R260). -/

namespace Sys2Proof.Machine

/-- The window kind of a code (R94); codes 5 to 255 are reserved. -/
def windowKind (a : BitVec 8) : Option WindowKind :=
  match a.toNat with
  | 0 => some .hamming
  | 1 => some .hann
  | 2 => some .blackman
  | 3 => some .bartlett
  | 4 => some .flatTop
  | _ => none

/-- `warg(K, n, L)` (R241): the formula, also at `n = L - 1`, against the remark beside it (log entry 11). -/
def warg (k : F64) (n len : Nat) : F64 := fdiv (fmul k (i2f n)) (i2f (len - 1))

/-- `w(kind, n, L)` for `L >= 2` (R242 to R246). -/
def windowCoeff (kind : WindowKind) (n len : Nat) : F64 :=
  match kind with
  | .hamming => fsub c0_54 (fmul c0_46 (cosF (warg k2 n len)))
  | .hann => fsub half (fmul half (cosF (warg k2 n len)))
  | .blackman =>
    fadd (fsub c0_42 (fmul half (cosF (warg k2 n len)))) (fmul c0_08 (cosF (warg k4 n len)))
  | .bartlett =>
    let r := fdiv (fmul two (i2f n)) (i2f (len - 1))
    if 2 * n ≤ len - 1 then r else fsub two r
  | .flatTop =>
    fadd (fsub (fadd (fsub c0_2156 (fmul c0_4166 (cosF (warg k2 n len)))) (fmul c0_2773 (cosF (warg k4 n len))))
      (fmul c0_0836 (cosF (warg k6 n len)))) (fmul c0_0069 (cosF (warg k8 n len)))

/-- Coefficient `n` of the window of any length `L > n`: `[1.0]` for `L = 1` (R240, R247). -/
def generated (kind : WindowKind) (len n : Nat) : F64 := if len = 1 then one else windowCoeff kind n len

/-- `W[0..L-1]` and `WLEN` for `L = ARG0` (R247). -/
def wgenEffect (kind : WindowKind) (s : State) : State :=
  { s.putWords .w s.arg0.toNat (generated kind s.arg0.toNat) with wlen := BitVec.ofNat 14 s.arg0.toNat }

/-- `S[i] <- fmul(S[i], W[i])` (R250). -/
def wapplyEffect (s : State) : State :=
  s.putWords .s s.len (fun i => fmul (s.word .s i) (s.word .w i))

/-- The checks of the window application (R250). -/
def checkWindowed (s : State) : Option Err := thenCheck (checkLength s) (checkWindowMatch s)

/-- The first member of an ascending list not below `r`, else the largest size (R258). -/
def firstNotBelow (r : Nat) : List Nat → Nat
  | [] => Config.nMax
  | m :: ms => if r ≤ m then m else firstNotBelow r ms

/-- `resolve_block_size(requested)` (R258). -/
def resolveSize (r : Nat) : Nat := firstNotBelow r Config.blockSizes

/-- The `AsBlock` lookup (R259). -/
def asBlock (r : Nat) : Nat := if r ∈ Config.blockSizes then r else 1024

/-- `RES <- resolve(ARG0)` (R258). -/
def resolveEffect (s : State) : State := { s with res := BitVec.ofNat 32 (resolveSize s.arg0.toNat) }

/-- `RES <- ARG0` when a member, else 1024 (R259). -/
def asblockEffect (s : State) : State := { s with res := BitVec.ofNat 32 (asBlock s.arg0.toNat) }

/-- `WGEN a` (R247): a reserved kind is illegal, then the length is checked. -/
def execWgen (a : BitVec 8) (s : State) : Host.Outcome State Fault Refusal :=
  match windowKind a with
  | none => perform (some .illegal) id s
  | some kind => perform (checkWindowLength s) (wgenEffect kind) s

/-- `WAPPLY` (R250). -/
def execWapply (s : State) : Host.Outcome State Fault Refusal := perform (checkWindowed s) wapplyEffect s

/-- `RESOLVE` (R258). -/
def execResolve (s : State) : Host.Outcome State Fault Refusal := perform none resolveEffect s

/-- `ASBLOCK` (R259). -/
def execAsblock (s : State) : Host.Outcome State Fault Refusal := perform none asblockEffect s

end Sys2Proof.Machine
end

