-- ==== Sys2Proof/Machine/Analyzer.lean ====
section
/-! DEFINITION. `LIFT`, `MAG`, `ANALYZE` (46_analyzer.md R270 to R280). -/

namespace Sys2Proof.Machine

/-- `X[i] <- (S[i], +0)` (R270). -/
def liftEffect (s : State) : State := s.putEntries s.working s.len (fun i => ⟨s.word .s i, posZero⟩)

/-- `(i · SRATE) >> LOG2N`, multiplied first, exactly (R125, R274). -/
def frequency (s : State) (i : Nat) : U32 := BitVec.ofNat 32 ((i * s.srate.toNat) >>> s.log2n.toNat)

/-- `sqrt(re² + im²)` as written (R272, R273). -/
def magnitudeOf (c : C64) : F64 := fsqrt (fadd (fmul c.re c.re) (fmul c.im c.im))

/-- The pairs of the bins `1 .. N/2-1`, and their number (R272). -/
def magEffect (s : State) : State :=
  let pairs := s.len / 2 - 1
  { (s.putWords .om pairs (fun j => magnitudeOf (s.x (j + 1)))).putFreqs pairs (fun j => frequency s (j + 1)) with
    olen := BitVec.ofNat 12 pairs }

/-- `WAPPLY` when `w = 1`, `LIFT`, `FFT`, `MAG` (R277). -/
def analyzeEffect (windowed : Bool) (s : State) : State :=
  magEffect (fftEffect (liftEffect (if windowed then wapplyEffect s else s)))

/-- `LIFT` (R270). -/
def execLift (s : State) : Host.Outcome State Fault Refusal := perform (checkLength s) liftEffect s

/-- `MAG` (R272). -/
def execMag (s : State) : Host.Outcome State Fault Refusal := perform (checkLength s) magEffect s

/-- `ANALYZE a` (R277): `a > 1` is illegal; the window's length is checked when `w = 1`. -/
def execAnalyze (a : BitVec 8) (s : State) : Host.Outcome State Fault Refusal :=
  match a.toNat with
  | 0 => perform (checkLength s) (analyzeEffect false) s
  | 1 => perform (checkWindowed s) (analyzeEffect true) s
  | _ => perform (some .illegal) id s

end Sys2Proof.Machine
end

