-- ==== Sys2Proof/Machine/Kernel.lean ====
section
/-! DEFINITION. `SIN`, `COS` (41_trig_kernel.md R149, R151, R152) and `CMUL` (44_transform.md R203). -/

namespace Sys2Proof.Machine

/-- `FR0 <- SIN(FA0)` (R151); any value for a non-finite operand (R149). -/
def sinEffect (s : State) : State :=
  if isFinite s.fa0 then { s with fr0 := sinF s.fa0 }
  else
    let (v, t) := s.takeFree
    { t with fr0 := v }

/-- `FR0 <- COS(FA0)` (R152); any value for a non-finite operand (R149). -/
def cosEffect (s : State) : State :=
  if isFinite s.fa0 then { s with fr0 := cosF s.fa0 }
  else
    let (v, t) := s.takeFree
    { t with fr0 := v }

/-- `(FR0, FR1) <- c`. -/
def State.setResult (s : State) (c : C64) : State := { s with fr0 := c.re, fr1 := c.im }

/-- `(FR0, FR1) <- cmul((FA0, FA1), (FB0, FB1))` (R203). -/
def cmulEffect (s : State) : State := s.setResult (cmul ⟨s.fa0, s.fa1⟩ ⟨s.fb0, s.fb1⟩)

/-- `SIN` (R151). -/
def execSin (s : State) : Host.Outcome State Fault Refusal := perform none sinEffect s

/-- `COS` (R152). -/
def execCos (s : State) : Host.Outcome State Fault Refusal := perform none cosEffect s

/-- `CMUL` (R203). -/
def execCmul (s : State) : Host.Outcome State Fault Refusal := perform none cmulEffect s

end Sys2Proof.Machine
end

