-- ==== Sys2Proof/Machine/System.lean ====
section
/-! DEFINITION. `NOP` (47_system.md R290). -/

namespace Sys2Proof.Machine

/-- `NOP` (R290): nothing but `ERR <- 0`. -/
def execNop (s : State) : Host.Outcome State Fault Refusal := perform none id s

end Sys2Proof.Machine
end

