-- ==== Sys2Proof/Machine/Twiddle.lean ====
section
/-! DEFINITION. `TWLD`, the read port of the twiddle ROM (43_twiddle_rom.md R185). -/

namespace Sys2Proof.Machine

/-- `(FR0, FR1) <- TW[ARG0 << (13 - LOG2N)]` (R185). -/
def twldEffect (s : State) : State := s.setResult (twiddle s.log2n.toNat s.arg0.toNat)

/-- `TWLD` (R185). -/
def execTwld (s : State) : Host.Outcome State Fault Refusal :=
  perform (thenCheck (checkLength s) (checkTwiddleIndex s)) twldEffect s

end Sys2Proof.Machine
end

