-- ==== Sys2Proof/Machine/Dispatch.lean ====
section
/-! DEFINITION. The dispatch: one arm per command (30_encoding.md R93). -/

namespace Sys2Proof.Machine

-- The command `i` at the state in which `CMD` already holds its word (R90).
def exec (i : Instr) (s : State) : Host.Outcome State Fault Refusal :=
  match i with
  | .nop => Sys2Proof.Machine.execNop s
  | .sin => Sys2Proof.Machine.execSin s
  | .cos => Sys2Proof.Machine.execCos s
  | .cmul => Sys2Proof.Machine.execCmul s
  | .brev => Sys2Proof.Machine.execBrev s
  | .brevn => Sys2Proof.Machine.execBrevn s
  | .reorder => Sys2Proof.Machine.execReorder s
  | .twld => Sys2Proof.Machine.execTwld s
  | .stage a => Sys2Proof.Machine.execStage a s
  | .fft => Sys2Proof.Machine.execFft s
  | .revcopy => Sys2Proof.Machine.execRevcopy s
  | .scale => Sys2Proof.Machine.execScale s
  | .ifft => Sys2Proof.Machine.execIfft s
  | .cmulv => Sys2Proof.Machine.execCmulv s
  | .xchg => Sys2Proof.Machine.execXchg s
  | .conv => Sys2Proof.Machine.execConv s
  | .wgen a => Sys2Proof.Machine.execWgen a s
  | .wapply => Sys2Proof.Machine.execWapply s
  | .resolve => Sys2Proof.Machine.execResolve s
  | .asblock => Sys2Proof.Machine.execAsblock s
  | .lift => Sys2Proof.Machine.execLift s
  | .mag => Sys2Proof.Machine.execMag s
  | .analyze a => Sys2Proof.Machine.execAnalyze a s

end Sys2Proof.Machine
end

