-- ==== Sys2Proof/Machine/Port.lean ====
section
/-! DEFINITION. The host port (20_memory.md R60 to R66; 30_encoding.md R90): one host action on the block. -/

namespace Sys2Proof.Machine

/-- The write of a command word: `CMD` holds it, it is decoded and then executed to its end; an illegal word raises
`Err(ILLEGAL)` (R90, R95, R98). -/
def runCommand (c : BitVec 32) (s : State) : Host.Outcome State Fault Refusal :=
  match decode c with
  | .ok i => exec i { s with cmd := c }
  | .error _ => perform (some .illegal) id { s with cmd := c }

/-- A host read (R63): the word goes to the host, the block does not change; an unmapped address is a bus error (R66). -/
def hostRead (a : Addr) (s : State) : Host.Outcome State Fault Refusal :=
  match locate a with
  | none => .refused (.busErrorUnmappedRead a)
  | some l => .next { s with port := { s.port with returned := s.port.returned ++ [readLocation s l] } }

/-- A host write (R64): the word is stored, and a write of `CMD` runs its low 32 bits; an unmapped or read-only address is a bus
error (R66). -/
def hostWrite (a : Addr) (v : Word) (s : State) : Host.Outcome State Fault Refusal :=
  match locate a with
  | none => .refused (.busErrorUnmappedWrite a)
  | some (.reg .cmd) => runCommand (v.setWidth 32) s
  | some l =>
    match writeLocation s l v with
    | none => .refused (.busErrorReadOnly a)
    | some t => .next t

/-- One host action on the block. -/
def doAction (h : HostAction) (s : State) : Host.Outcome State Fault Refusal :=
  match h with
  | .read a => hostRead a s
  | .write a v => hostWrite a v s
  | .reset => .next (applyReset s)

/-- The next host action, taken from the pending ones, in the host's order (R70). With none pending the block waits and holds its
state (R317, R331; log entry 10). -/
def hostStep (s : State) : Host.Outcome State Fault Refusal :=
  match s.port.pending with
  | [] => .next s
  | h :: rest => doAction h { s with port := { s.port with pending := rest } }

/-- The host action that is a command: the write of its word to `CMD` (R99). -/
def commandAction (c : BitVec 32) : HostAction := .write 0 (c.setWidth 64)

/-- Put a host action before the pending ones. -/
def State.offer (s : State) (h : HostAction) : State :=
  { s with port := { s.port with pending := h :: s.port.pending } }

end Sys2Proof.Machine
end

