-- ==== Sys2Proof/Machine/Step.lean ====
section
/-! DEFINITION. One step of R2FFT: the next host action (00_scope.md R10). A command is one atomic transition. -/

namespace Sys2Proof.Machine

/-- One step: the oldest pending host action is performed on the block. -/
def step (s : State) : Host.Outcome State Fault Refusal := hostStep s

/-- `s` with the write of a command word to `CMD` as the host's next action. The block fetches no instructions (R23): this is
how a command comes to run (log entry 5). -/
def State.withFetchWord (s : State) (nbits w : Nat) : State := s.offer (commandAction (tableWord nbits w))

end Sys2Proof.Machine
end

