-- ==== Sys2Proof/Safety.lean ====
section
/-! DEFINITION. What counts as a safe state and a safe run of R2FFT, in the terms the claims use. -/

namespace Sys2Proof.Machine

/-- Every memory is in canonical form, with no index outside it (10_state.md R36; 60_exceptions.md R306). -/
def State.memoriesOk (s : State) : Bool :=
  [MemName.xa, .xb, .y, .s, .w, .om].all (fun n => (s.mem n).wf (Config.memWords n)) && s.memOF.wf Config.outMax

/-- `OLEN` is 0, as after reset, or the `N/2 - 1` of a legal N (10_state.md R32). -/
def State.olenOk (s : State) : Bool := (List.range Config.kMax).any (fun j => s.olen.toNat + 1 == 2 ^ j)

/-- The invariant of the machine. -/
structure State.Inv (s : State) : Prop where
  memories : s.memoriesOk = true
  olen : s.olenOk = true

/-- A host action the block allows: reset, a read of a mapped word, a write of a mapped writable word (20_memory.md R66). -/
def HostAction.allowed (s : State) : HostAction → Bool
  | .reset => true
  | .read a => (locate a).isSome
  | .write a v =>
    match locate a with
    | none => false
    | some l => (writeLocation s l v).isSome

/-- A run of `n` steps is safe: it is not refused, and it ends in a state that meets the invariant. -/
def SafeRun (n : Nat) (s : State) : Prop := ∃ t, Sys2Proof.core.run n s = .next t ∧ State.Inv t

end Sys2Proof.Machine
end

