-- ==== Sys2Proof/Certificates/Slice0/Obligations.lean ====
section
/-! DEFINITION. What is claimed of the model, for the provers. Each statement's docstring names the rules it formalises. -/

namespace Sys2Proof.Claims

open Sys2Proof.Machine

/-! ### Words the statements share -/

/-- `valid_len` (R16). -/
def ValidLen (s : State) : Prop := 1 ≤ s.log2n.toNat ∧ s.log2n.toNat ≤ 13

/-- `N` (R16). -/
def pts (s : State) : Nat := 2 ^ s.log2n.toNat

/-- Every register other than `STATUS`, and the model's own fields: the state with `STATUS` and the memories blanked out. Two
states that agree here agree on all of those. -/
def registers (s : State) : State :=
  { s with err := .ok, sel := false, memXA := [], memXB := [], memY := [], memS := [], memW := [], memOM := [], memOF := [] }

/-- The frame of a command that writes at most the words `changed` of the 64-bit memories and no entry of `OF`. -/
def MemFrame (s t : State) (changed : MemName → Nat → Prop) : Prop :=
  (∀ n k, ¬ changed n k → t.word n k = s.word n k) ∧ ∀ j, t.freq j = s.freq j

/-- A command that succeeded by writing `Z[0..N-1]` and flipping: nothing else changed. -/
def Produced (s t : State) : Prop :=
  t.err = .ok ∧ t.sel = (!s.sel) ∧ registers t = registers s ∧ MemFrame s t (fun n k => n = s.other ∧ k < 2 * pts s)

/-- A command that succeeded by writing words `0 .. c-1` of one memory in place: nothing else changed. -/
def WroteInPlace (s t : State) (m : MemName) (c : Nat) : Prop :=
  t.err = .ok ∧ t.sel = s.sel ∧ registers t = registers s ∧ MemFrame s t (fun n k => n = m ∧ k < c)

/-- The real number a finite pattern stands for (R110). -/
noncomputable def realValue (a : F64) : ℝ := (signedUnits a : ℝ) / 2 ^ 1074

/-- `r` is the real number `x` rounded once to nearest, ties to the value with even `frac`; from `2^1024 - 2^970` on the infinity
of its sign (R111). The comparison with every finite `y`, the subnormal ones among them, is the gradual underflow. -/
def IsRounding (x : ℝ) (r : F64) : Prop :=
  (2 ^ 1024 - 2 ^ 970 ≤ |x| → r = if x < 0 then negInf else posInf) ∧
  (|x| < 2 ^ 1024 - 2 ^ 970 →
    isFinite r = true ∧
    ∀ y : F64, isFinite y = true →
      |realValue r - x| ≤ |realValue y - x| ∧
      (|realValue y - x| = |realValue r - x| → realValue y ≠ realValue r → fracField r % 2 = 0))

/-- The primitive or composite commands of a list one after the other. -/
def runAll : List Instr → State → Host.Outcome State Fault Refusal
  | [], s => .next s
  | i :: rest, s =>
    match exec i s with
    | .next t => runAll rest t
    | .fault r => .fault r
    | .refused r => .refused r

/-- `STAGE 1 .. STAGE k`. -/
def stages (k : Nat) : List Instr := (List.range k).map (fun i => .stage (BitVec.ofNat 8 (i + 1)))

/-- The words R95 calls illegal. -/
def IllegalWord (c : BitVec 32) : Prop :=
  let op := c.toNat % 256
  let a := c.toNat / 256 % 256
  c.toNat / 65536 ≠ 0 ∨
  op ∉ [0x00, 0x01, 0x02, 0x03, 0x08, 0x09, 0x0A, 0x10, 0x18, 0x19, 0x1A, 0x1B, 0x1C, 0x1D, 0x1E, 0x1F, 0x20, 0x21,
    0x22, 0x23, 0x28, 0x29, 0x2A] ∨
  (op ∉ [0x18, 0x20, 0x2A] ∧ a ≠ 0) ∨
  (op = 0x20 ∧ 4 < a) ∨ (op = 0x2A ∧ 1 < a)

/-- The commands that use N (R98). -/
def usesLength : Instr → Bool
  | .reorder | .twld | .stage _ | .fft | .revcopy | .scale | .ifft | .cmulv | .xchg | .conv | .wapply | .lift | .mag
  | .analyze _ => true
  | .nop | .sin | .cos | .cmul | .brev | .brevn | .wgen _ | .resolve | .asblock => false

/-- The range-checked operands (R98, R303). -/
def OperandBad (s : State) : Instr → Prop
  | .stage a => a.toNat = 0 ∨ s.log2n.toNat < a.toNat
  | .brevn => 32 < s.arg1.toNat
  | .wgen _ => 8192 < s.arg0.toNat
  | .twld => pts s ≤ s.arg0.toNat
  | _ => False

/-- The length comparisons (R98, R304). -/
def LengthsDiffer (s : State) : Instr → Prop
  | .cmulv | .xchg | .conv => s.ylog2n ≠ s.log2n
  | .wapply => s.wlen.toNat ≠ pts s
  | .analyze a => a.toNat = 1 ∧ s.wlen.toNat ≠ pts s
  | _ => False

/-- How often a command that succeeds flips `SEL` (R164, R204, R206, R207, R209, R212, R277). -/
def flips (k : Nat) : Instr → Nat
  | .reorder | .stage _ | .revcopy => 1
  | .fft | .analyze _ => k + 1
  | .ifft => k + 2
  | .conv => 3 * k + 4
  | _ => 0

/-- The registers a command's control flow may depend on, with those it decides. -/
def control (s : State) : Bool × BitVec 4 × BitVec 4 × BitVec 32 × BitVec 14 × BitVec 12 × U32 × U32 × U32 :=
  (s.sel, s.log2n, s.ylog2n, s.srate, s.wlen, s.olen, s.arg0, s.arg1, s.res)

/-- The addresses that hold nothing (R24, R61). -/
abbrev Unmapped (a : Nat) : Prop := a = 0x7 ∨ (0xB ≤ a ∧ a ≤ 0xF) ∨ (0x16 ≤ a ∧ a ≤ 0x7FFF) ∨ 0x16000 ≤ a

/-- The read-only addresses (R24, R61, R66): `STATUS`, `OLEN`, `RES`, `FR0`, `FR1`, `OM`, `OF`. -/
abbrev ReadOnly (a : Nat) : Prop := a = 0x1 ∨ a = 0x6 ∨ a = 0xA ∨ a = 0x14 ∨ a = 0x15 ∨ (0x14000 ≤ a ∧ a ≤ 0x15FFF)

/-- The width of a register (R24). -/
def regWidth : Reg → Nat
  | .log2n | .ylog2n => 4
  | .wlen => 14
  | .olen => 12
  | .cmd | .status | .srate | .arg0 | .arg1 | .res => 32
  | .fa0 | .fa1 | .fb0 | .fb1 | .fr0 | .fr1 => 64

/-- The width of what a mapped address names. -/
def widthOf : Location → Nat
  | .reg r => regWidth r
  | .xWindow _ | .mem _ _ => 64
  | .freq _ => 32

/-- The address of a number. -/
def addr (a : Nat) : Addr := BitVec.ofNat 17 a

/-- Reading address `a` gives the host the word `v` and changes nothing else (R63). -/
def Reads (s : State) (a : Nat) (v : Word) : Prop :=
  step (s.offer (.read (addr a))) = .next { s with port := { s.port with returned := s.port.returned ++ [v] } }

/-- The coefficient formulas of R242 to R246, by kind code, for a length of at least 2, with the angle of R241's formula at every
`n` (log entry 11). -/
def windowFormula (code n len : Nat) : F64 :=
  let m := i2f (len - 1)
  let c (k : F64) : F64 := cosF (fdiv (fmul k (i2f n)) m)
  match code with
  | 0 => fsub 0x3FE147AE147AE148 (fmul 0x3FDD70A3D70A3D71 (c k2))
  | 1 => fsub 0x3FE0000000000000 (fmul 0x3FE0000000000000 (c k2))
  | 2 => fadd (fsub 0x3FDAE147AE147AE1 (fmul 0x3FE0000000000000 (c k2))) (fmul 0x3FB47AE147AE147B (c k4))
  | 3 =>
    if 2 * n ≤ len - 1 then fdiv (fmul 0x4000000000000000 (i2f n)) m
    else fsub 0x4000000000000000 (fdiv (fmul 0x4000000000000000 (i2f n)) m)
  | _ =>
    fadd (fsub (fadd (fsub 0x3FCB98C7E28240B8 (fmul 0x3FDAA9930BE0DED3 (c k2))) (fmul 0x3FD1BF487FCB923A (c k4)))
      (fmul 0x3FB566CF41F212D7 (c k6))) (fmul 0x3F7C432CA57A786C (c k8))

/-- The first coefficient of a window of at least two, by kind code (95_test_vectors.md V-W2). -/
def startValue : Nat → F64
  | 0 => 0x3FB47AE147AE147C
  | 1 => 0x0000000000000000
  | 2 => 0xBC70000000000000
  | 3 => 0x0000000000000000
  | _ => 0xBF3A36E2EB1C4440

/-- Every number of the kernel is finite. -/
def NumbersFinite (kn : KernelNumbers) : Prop :=
  [kn.fourByPi, kn.pa, kn.pb, kn.pc].all isFinite = true ∧
  [kn.sinC, kn.cosC].all (fun c => [c.1, c.2.1, c.2.2.1, c.2.2.2.1, c.2.2.2.2.1, c.2.2.2.2.2].all isFinite) = true

/-- The directly computed entry `n` of the twiddle table of size `f` (R184). -/
def directEntry (f n : Nat) : C64 :=
  let u := fdiv (fmul (fneg k2) (i2f n)) (i2f f)
  ⟨cosF u, sinF u⟩

end Sys2Proof.Claims

open Sys2Proof Sys2Proof.Machine Sys2Proof.Claims

/-! ### Encoding -/

/-- Decoding an encoded well-formed command gives it back (R91 to R93), with every value of `a`. -/
def Obligations.EncodedCommandDecodesToItself : Prop := ∀ i : Instr, i.wellFormed → decode (encode i) = .ok i

/-- A word that decodes is the encoding of the command it decodes to, which is well formed: no other word executes as that
command (R97). -/
def Obligations.EveryLegalWordHasOneMeaning : Prop := ∀ c i, decode c = .ok i → encode i = c ∧ i.wellFormed

/-- R95: which words are illegal, and what writing one does. -/
def Obligations.IllegalWordsRaiseIllegal : Prop :=
  (∀ c, IllegalWord c ↔ ∃ e, decode c = .error e) ∧
  ∀ (s : State) (v : Word), IllegalWord (v.setWidth 32) →
    step (s.offer (.write 0 v)) = .next { s with cmd := v.setWidth 32, err := .illegal }

/-- Command words written out from R93 decode to their commands. -/
def Obligations.WordsOfEachFamilyDecode : Prop :=
  decode 0x00000000 = .ok .nop ∧ decode 0x00000002 = .ok .cos ∧ decode 0x00000009 = .ok .brevn ∧
  decode 0x00000010 = .ok .twld ∧ decode 0x00000318 = .ok (.stage 3) ∧ decode 0x0000001E = .ok .xchg ∧
  decode 0x00000420 = .ok (.wgen 4) ∧ decode 0x00000023 = .ok .asblock ∧ decode 0x0000012A = .ok (.analyze 1)

/-! ### Reset and the invariant -/

/-- R40: every register reads zero after reset, so every command that uses N raises `Err(LENGTH)` then. -/
def Obligations.ResetRegistersZeroAndLengthUnset : Prop :=
  (∀ r : Reg, readReg State.reset r = 0) ∧
  ∀ i : Instr, i.wellFormed → usesLength i = true → exec i State.reset = .next { State.reset with err := .length }

/-- The state after reset meets the invariant. -/
def Obligations.ResetMeetsInvariant : Prop := State.reset.Inv

/-- Every step keeps the invariant: memories stay canonical and inside their size (R69, R306), `OLEN` stays 0 or the
`N/2 - 1` of a legal N (R32). -/
def Obligations.StepKeepsInvariant : Prop := ∀ s t : State, s.Inv → step s = .next t → t.Inv

/-- A run of allowed host actions, of any length, from any state that meets the invariant, is never refused and ends in a state
that meets it (R69, R305, R306, R344). -/
def Obligations.AllowedRunsAreSafe : Prop :=
  ∀ s : State, s.Inv → (∀ h ∈ s.port.pending, h.allowed s = true) → ∀ n, SafeRun n s

/-- R330: the external reset zeroes every register; each memory word then holds the unspecified pattern of that reset (the
model's free value, log entries 2 and 8); the host's side of the port is as before. -/
def Obligations.ResetActionFromAnyState : Prop :=
  ∀ s : State, ∃ t, step (s.offer .reset) = .next t ∧ (∀ r : Reg, readReg t r = 0) ∧
    (∀ n k, t.word n k = Config.powerOn (s.resets + 1) n k) ∧
    (∀ j, t.freq j = Config.powerOnOF (s.resets + 1) j) ∧ t.port = s.port

/-! ### The host port -/

/-- R90, R64: a write of word 0 stores its low 32 bits in `CMD` and runs the command they decode to. -/
def Obligations.CommandWriteRunsDecodedCommand : Prop :=
  (∀ (s : State) (v : Word) (i : Instr), decode (v.setWidth 32) = .ok i →
    step (s.offer (.write 0 v)) = exec i { s with cmd := v.setWidth 32 }) ∧
  ∀ (s : State) (i : Instr), i.wellFormed →
    step (s.offer (commandAction (encode i))) = exec i { s with cmd := encode i } ∧
    step (s.withFetchWord 32 (encode i).toNat) = exec i { s with cmd := encode i }

/-- R61, R62, R63: what a host read of every mapped address returns, and that it changes nothing of the block. -/
def Obligations.HostAddressMap : Prop :=
  ∀ s : State,
    (Reads s 0x00 (s.cmd.setWidth 64) ∧ Reads s 0x01 ((statusWord s).setWidth 64) ∧ Reads s 0x02 (s.log2n.setWidth 64) ∧
      Reads s 0x03 (s.ylog2n.setWidth 64) ∧ Reads s 0x04 (s.srate.setWidth 64) ∧ Reads s 0x05 (s.wlen.setWidth 64) ∧
      Reads s 0x06 (s.olen.setWidth 64) ∧ Reads s 0x08 (s.arg0.setWidth 64) ∧ Reads s 0x09 (s.arg1.setWidth 64) ∧
      Reads s 0x0A (s.res.setWidth 64) ∧ Reads s 0x10 s.fa0 ∧ Reads s 0x11 s.fa1 ∧ Reads s 0x12 s.fb0 ∧
      Reads s 0x13 s.fb1 ∧ Reads s 0x14 s.fr0 ∧ Reads s 0x15 s.fr1) ∧
    (∀ i, i < 8192 →
      Reads s (0x08000 + 2 * i) (if s.sel then s.entry .xb i else s.entry .xa i).re ∧
      Reads s (0x08000 + 2 * i + 1) (if s.sel then s.entry .xb i else s.entry .xa i).im ∧
      Reads s (0x0C000 + 2 * i) (s.entry .y i).re ∧ Reads s (0x0C000 + 2 * i + 1) (s.entry .y i).im ∧
      Reads s (0x10000 + i) (s.word .s i) ∧ Reads s (0x12000 + i) (s.word .w i)) ∧
    (∀ i, i < 4096 → Reads s (0x14000 + i) (s.word .om i) ∧ Reads s (0x15000 + i) ((s.freq i).setWidth 64))

/-- R22, R64: a host write of a mapped writable word other than `CMD` stores the word's low bits there and changes no other
mapped word. -/
def Obligations.HostWriteThenRead : Prop :=
  ∀ (s t : State) (a : Addr) (v : Word) (l : Location), a ≠ 0 → locate a = some l → step (s.offer (.write a v)) = .next t →
    (readLocation t l).toNat = v.toNat % 2 ^ widthOf l ∧
    (∀ b l', b ≠ a → locate b = some l' → readLocation t l' = readLocation s l') ∧
    t.port = s.port ∧ t.freeCount = s.freeCount ∧ t.resets = s.resets

/-- R66: exactly the accesses of unmapped words and the writes of read-only words are bus errors; the model refuses them, and
only them. -/
def Obligations.BusErrorsAreRefused : Prop :=
  ∀ (s : State) (a : Addr) (v : Word),
    (Unmapped a.toNat → step (s.offer (.read a)) = .refused (.busErrorUnmappedRead a) ∧
      step (s.offer (.write a v)) = .refused (.busErrorUnmappedWrite a)) ∧
    (ReadOnly a.toNat → step (s.offer (.write a v)) = .refused (.busErrorReadOnly a)) ∧
    (¬ Unmapped a.toNat → ∃ t, step (s.offer (.read a)) = .next t) ∧
    (¬ Unmapped a.toNat → ¬ ReadOnly a.toNat → ∃ t, step (s.offer (.write a v)) = .next t)

/-- R34: the host can neither read nor write the other buffer. -/
def Obligations.OtherBufferHiddenFromHost : Prop :=
  ∀ (s : State) (m : Memory Word) (a : Addr),
    (∀ l, locate a = some l → readLocation (s.setMem s.other m) l = readLocation s l) ∧
    (a ≠ 0 → ∀ v t, step (s.offer (.write a v)) = .next t → t.other = s.other ∧ t.mem s.other = s.mem s.other)

/-- R25, R300: the fields of `STATUS` and the error codes. -/
def Obligations.StatusWordFields : Prop :=
  (errCode .ok = 0 ∧ errCode .illegal = 1 ∧ errCode .length = 2 ∧ errCode .operand = 3 ∧ errCode .mismatch = 4) ∧
  ∀ s : State, (statusWord s).toNat % 16 = (errCode s.err).toNat ∧ (statusWord s).getLsbD 4 = s.sel ∧
    ∀ i, 5 ≤ i → (statusWord s).getLsbD i = false

/-! ### Command errors -/

/-- R305: a command that raises an error changes `CMD` to the written word and `STATUS.ERR` to the code, and nothing else; an
illegal word is such a command. Seen from `exec`, `CMD` already holds the word. -/
def Obligations.FailedCommandChangesOnlyErr : Prop :=
  (∀ (s t : State) (c : BitVec 32), step (s.offer (commandAction c)) = .next t → t.err ≠ .ok →
    t = { s with cmd := c, err := t.err }) ∧
  ∀ (i : Instr) (s t : State), exec i s = .next t → t.err ≠ .ok → t = { s with err := t.err }

/-- R98, R300 to R304, R307: every command ends, with the code of the first check that applies. -/
def Obligations.FirstFailingCheckIsReported : Prop :=
  ∀ (i : Instr) (s : State), ∃ t, exec i s = .next t ∧
    (¬ i.wellFormed → t.err = .illegal) ∧
    (i.wellFormed → usesLength i = true → ¬ ValidLen s → t.err = .length) ∧
    (i.wellFormed → (usesLength i = true → ValidLen s) → OperandBad s i → t.err = .operand) ∧
    (i.wellFormed → (usesLength i = true → ValidLen s) → ¬ OperandBad s i → LengthsDiffer s i → t.err = .mismatch) ∧
    (i.wellFormed → (usesLength i = true → ValidLen s) → ¬ OperandBad s i → ¬ LengthsDiffer s i → t.err = .ok)

/-! ### Rules about the whole machine -/

/-- The writers of every register and memory (R24, R36): a command writes only what the tables name it for. -/
def Obligations.OnlyNamedCommandsWrite : Prop :=
  ∀ (i : Instr) (s t : State), exec i s = .next t →
    (t.cmd = s.cmd ∧ t.log2n = s.log2n ∧ t.ylog2n = s.ylog2n ∧ t.srate = s.srate ∧ t.arg0 = s.arg0 ∧ t.arg1 = s.arg1 ∧
      t.fa0 = s.fa0 ∧ t.fa1 = s.fa1 ∧ t.fb0 = s.fb0 ∧ t.fb1 = s.fb1 ∧ t.resets = s.resets ∧ t.port = s.port) ∧
    (t.freeCount = s.freeCount ∨ i ∈ [.sin, .cos]) ∧
    (t.wlen = s.wlen ∨ ∃ a, i = .wgen a) ∧
    (t.olen = s.olen ∨ i = .mag ∨ ∃ a, i = .analyze a) ∧
    (t.res = s.res ∨ i ∈ [.brev, .brevn, .resolve, .asblock]) ∧
    (t.fr0 = s.fr0 ∨ i ∈ [.sin, .cos, .cmul, .twld]) ∧
    (t.fr1 = s.fr1 ∨ i ∈ [.cmul, .twld]) ∧
    (t.memY = s.memY ∨ i ∈ [.xchg, .conv]) ∧
    (t.memS = s.memS ∨ i = .wapply ∨ ∃ a, i = .analyze a) ∧
    (t.memW = s.memW ∨ ∃ a, i = .wgen a) ∧
    ((t.memOM = s.memOM ∧ t.memOF = s.memOF) ∨ i = .mag ∨ ∃ a, i = .analyze a) ∧
    ((t.memXA = s.memXA ∧ t.memXB = s.memXB) ∨
      i ∈ [.reorder, .fft, .revcopy, .scale, .ifft, .cmulv, .xchg, .conv, .lift] ∨
      ∃ a, i = .stage a ∨ i = .analyze a)

/-- R34: "Entries `N` to 8191 of either buffer are never written by a command." -/
def Obligations.EntriesAboveNNeverWritten : Prop :=
  ∀ (i : Instr) (s t : State), exec i s = .next t → ∀ k, 2 * pts s ≤ k →
    t.word .xa k = s.word .xa k ∧ t.word .xb k = s.word .xb k

/-- R291: no command's control flow depends on the data: from two states that agree on the integer registers and `SEL`, a command
ends with the same code and the same integer registers and `SEL`, and leaves `OF` the same. -/
def Obligations.ControlFlowIgnoresData : Prop :=
  ∀ (i : Instr) (s s' t t' : State), control s = control s' → (∀ j, s.freq j = s'.freq j) →
    exec i s = .next t → exec i s' = .next t' →
    t.err = t'.err ∧ control t = control t' ∧ ∀ j, t.freq j = t'.freq j

/-- How often each command flips `SEL` when it succeeds, and that it does not when it fails. -/
def Obligations.SelFlipsPerCommand : Prop :=
  ∀ (i : Instr) (s t : State), exec i s = .next t →
    (t.err = .ok → t.sel = (s.sel != decide (flips s.log2n.toNat i % 2 = 1))) ∧ (t.err ≠ .ok → t.sel = s.sel)

/-! ### Numerics -/

/-- R112, with R111 and R117: the sum, for every pair of patterns. -/
def Obligations.FaddRoundsTheExactSum : Prop :=
  ∀ a b : F64,
    (isNaN a = true ∨ isNaN b = true → fadd a b = qNaN ∧ fsub a b = qNaN) ∧
    (isFinite a = true → isFinite b = true → realValue a + realValue b ≠ 0 →
      IsRounding (realValue a + realValue b) (fadd a b)) ∧
    (isFinite a = true → isFinite b = true → realValue a + realValue b = 0 →
      fadd a b = if signBit a = true ∧ signBit b = true then negZero else posZero) ∧
    (isZero a = true → isFinite b = true → isZero b = false → fadd a b = b ∧ fadd b a = b) ∧
    (isInf a = true → isFinite b = true → fadd a b = a ∧ fadd b a = a) ∧
    (isInf a = true → isInf b = true → fadd a b = if signBit a = signBit b then a else qNaN) ∧
    (isNaN b = false → fsub a b = fadd a (fneg b))

/-- R113, with R111 and R117: the product, for every pair of patterns. -/
def Obligations.FmulRoundsTheExactProduct : Prop :=
  ∀ a b : F64,
    (isNaN a = true ∨ isNaN b = true → fmul a b = qNaN) ∧
    (isNaN (fmul a b) = false → signBit (fmul a b) = (signBit a != signBit b)) ∧
    (isFinite a = true → isFinite b = true → isZero a = false → isZero b = false →
      IsRounding (realValue a * realValue b) (fmul a b)) ∧
    (isZero a = true → isFinite b = true → isZero (fmul a b) = true ∧ isZero (fmul b a) = true) ∧
    (isInf a = true → isNaN b = false → isZero b = false → isInf (fmul a b) = true ∧ isInf (fmul b a) = true) ∧
    (isZero a = true → isInf b = true → fmul a b = qNaN ∧ fmul b a = qNaN)

/-- R114, with R111 and R117: the quotient, for every pair of patterns; no divisor of the block is zero, and division by a transform
length is exact unless the quotient is subnormal. -/
def Obligations.FdivRoundsTheExactQuotient : Prop :=
  (∀ a b : F64,
    (isNaN a = true ∨ isNaN b = true → fdiv a b = qNaN) ∧
    (isNaN (fdiv a b) = false → signBit (fdiv a b) = (signBit a != signBit b)) ∧
    (isFinite a = true → isFinite b = true → isZero b = false → IsRounding (realValue a / realValue b) (fdiv a b)) ∧
    (isNaN a = false → isZero a = false → isZero b = true → isInf (fdiv a b) = true) ∧
    (isZero a = true → isZero b = true → fdiv a b = qNaN) ∧
    (isInf a = true → isInf b = true → fdiv a b = qNaN) ∧
    (isFinite a = true → isInf b = true → isZero (fdiv a b) = true) ∧
    (isInf a = true → isFinite b = true → isInf (fdiv a b) = true)) ∧
  (∀ n, 1 ≤ n → n ≤ 8192 → isFinite (i2f n) = true ∧ isZero (i2f n) = false) ∧
  ∀ (a : F64) (k : Nat), isFinite a = true → k ≤ 13 → (2 : ℝ) ^ (-1022 : ℤ) ≤ |realValue a / 2 ^ k| →
    realValue (fdiv a (i2f (2 ^ k))) = realValue a / 2 ^ k

/-- R115, with R111 and R117: the square root, for every pattern; the operand that the block gives it is never negative and
never `-0`. -/
def Obligations.FsqrtRoundsTheExactRoot : Prop :=
  (∀ a : F64,
    (isFinite a = true → 0 < realValue a → IsRounding (Real.sqrt (realValue a)) (fsqrt a)) ∧
    fsqrt posZero = posZero ∧ fsqrt negZero = negZero ∧ fsqrt posInf = posInf ∧ fsqrt negInf = qNaN ∧
    (isFinite a = true → realValue a < 0 → fsqrt a = qNaN) ∧
    (isNaN a = true → fsqrt a = qNaN)) ∧
  ∀ c : C64, isNaN (fadd (fmul c.re c.re) (fmul c.im c.im)) = true ∨
    signBit (fadd (fmul c.re c.re) (fmul c.im c.im)) = false

/-- R116: `fneg` and `fabs` bit by bit, on NaN patterns too; the integers the block converts are converted exactly. -/
def Obligations.NegAbsAndIntegerConversion : Prop :=
  (∀ (a : F64) (i : Nat), i < 64 →
    (fneg a).getLsbD i = (if i = 63 then !a.getLsbD 63 else a.getLsbD i) ∧
    (fabs a).getLsbD i = (if i = 63 then false else a.getLsbD i)) ∧
  (∀ n : Nat, n ≤ 8192 → isFinite (i2f n) = true ∧ realValue (i2f n) = n ∧ signBit (i2f n) = false)

/-- R119: every literal of the rules is the binary64 value nearest to its decimal number. -/
def Obligations.LiteralsAreNearest : Prop :=
  IsRounding (54 / 100) 0x3FE147AE147AE148 ∧ IsRounding (46 / 100) 0x3FDD70A3D70A3D71 ∧
  IsRounding (42 / 100) 0x3FDAE147AE147AE1 ∧ IsRounding (1 / 2) 0x3FE0000000000000 ∧
  IsRounding (8 / 100) 0x3FB47AE147AE147B ∧ IsRounding (2156 / 10000) 0x3FCB98C7E28240B8 ∧
  IsRounding (4166 / 10000) 0x3FDAA9930BE0DED3 ∧ IsRounding (2773 / 10000) 0x3FD1BF487FCB923A ∧
  IsRounding (836 / 10000) 0x3FB566CF41F212D7 ∧ IsRounding (69 / 10000) 0x3F7C432CA57A786C ∧
  IsRounding 2 0x4000000000000000 ∧ IsRounding 1 0x3FF0000000000000 ∧
  [c0_54, c0_46, c0_42, half, c0_08, c0_2156] = [0x3FE147AE147AE148, 0x3FDD70A3D70A3D71, 0x3FDAE147AE147AE1,
    0x3FE0000000000000, 0x3FB47AE147AE147B, 0x3FCB98C7E28240B8] ∧
  [c0_4166, c0_2773, c0_0836, c0_0069, two, one] = [0x3FDAA9930BE0DED3, 0x3FD1BF487FCB923A, 0x3FB566CF41F212D7,
    0x3F7C432CA57A786C, 0x4000000000000000, 0x3FF0000000000000]

/-- R120: `PI` and `K2`, `K4`, `K6`, `K8` are the binary64 values nearest to π, 2π, 4π, 6π, 8π; the doublings are exact, and `K6` is
also the product. -/
def Obligations.PiConstantsAreNearest : Prop :=
  IsRounding Real.pi 0x400921FB54442D18 ∧ IsRounding (2 * Real.pi) 0x401921FB54442D18 ∧
  IsRounding (4 * Real.pi) 0x402921FB54442D18 ∧ IsRounding (6 * Real.pi) 0x4032D97C7F3321D2 ∧
  IsRounding (8 * Real.pi) 0x403921FB54442D18 ∧
  [piF, k2, k4, k6, k8] = [0x400921FB54442D18, 0x401921FB54442D18, 0x402921FB54442D18, 0x4032D97C7F3321D2, 0x403921FB54442D18] ∧
  k2 = fmul 0x4000000000000000 piF ∧ realValue k4 = 2 * realValue k2 ∧ realValue k8 = 2 * realValue k4 ∧
  k6 = fmul 0x4018000000000000 piF

/-- R122: `fadd`, `fmul` (and so `cmul`, R202) are commutative bit for bit and not associative. -/
def Obligations.AddAndMulCommute : Prop :=
  (∀ a b : F64, fadd a b = fadd b a ∧ fmul a b = fmul b a) ∧ (∀ x y : C64, cmul x y = cmul y x) ∧
  (∃ a b c : F64, fadd (fadd a b) c ≠ fadd a (fadd b c)) ∧ ∃ a b c : F64, fmul (fmul a b) c ≠ fmul a (fmul b c)

/-! ### The trigonometric unit -/

/-- R142, R143, R150, and the finiteness of R140, for every kernel. -/
def Obligations.KernelContractHolds : Prop :=
  (∀ x : F64, isFinite x = true →
    isFinite (sinF x) = true ∧ isFinite (cosF x) = true ∧
    (signBit x = false → sinF x = sinF (fabs x)) ∧ (signBit x = true → sinF x = fneg (sinF (fabs x))) ∧
    cosF x = cosF (fabs x)) ∧
  sinF posZero = posZero ∧ sinF negZero = negZero ∧ cosF posZero = one ∧ cosF negZero = one

/-- R151, R152, R149: what `SIN` and `COS` do. On a non-finite operand the result is the model's next free value (log entry 4). -/
def Obligations.SinCosCommands : Prop :=
  decode 0x00000001 = .ok .sin ∧ decode 0x00000002 = .ok .cos ∧
  ∀ s : State,
    (isFinite s.fa0 = true → exec .sin s = .next { s with fr0 := sinF s.fa0, err := .ok } ∧
      exec .cos s = .next { s with fr0 := cosF s.fa0, err := .ok }) ∧
    (isFinite s.fa0 = false →
      exec .sin s = .next { s with fr0 := Config.anyTrig s.freeCount, freeCount := s.freeCount + 1, err := .ok } ∧
      exec .cos s = .next { s with fr0 := Config.anyTrig s.freeCount, freeCount := s.freeCount + 1, err := .ok })

/-- The algorithm of R144 to R148, as transcribed, has the sign laws of R142 and R143, and with finite numbers the values at zero
of R150. These clauses are the model's choice of form (log entry 12): `kernelSin` and `kernelCos` are never called by the machine
and are not its `SIN` and `COS` (`KernelContractHolds` is about those); the reduction from 2^29 on is a free parameter (log
entry 20), and the sign clauses hold of the transcription for non-finite `x` too, where R149 fixes nothing. -/
def Obligations.KernelAlgorithmSignsAndZero : Prop :=
  ∀ (kn : KernelNumbers) (large : F64 → Nat × F64),
    (∀ x, kernelSin kn large (fneg x) = fneg (kernelSin kn large x) ∧
      kernelCos kn large (fneg x) = kernelCos kn large x) ∧
    (NumbersFinite kn → kernelSin kn large posZero = posZero ∧ kernelSin kn large negZero = negZero ∧
      kernelCos kn large posZero = one ∧ kernelCos kn large negZero = one)

/-! ### Bit reversal -/

/-- R160, R162: `BREV` reverses `ARG0` within its bit length, and changes nothing else. -/
def Obligations.BrevReversesWithinBitLength : Prop :=
  decode 0x00000008 = .ok .brev ∧
  ∀ s : State, ∃ t, exec .brev s = .next t ∧ t = { s with res := t.res, err := .ok } ∧
    (∀ j, j < s.arg0.toNat.size → t.res.toNat.testBit (s.arg0.toNat.size - 1 - j) = s.arg0.toNat.testBit j) ∧
    ∀ j, s.arg0.toNat.size ≤ j → t.res.toNat.testBit j = false

/-- R167: `brev` twice drops the trailing zeros, so it is the identity exactly on zero and the odd values; `BREVN` at size 32 is
an involution on all. -/
def Obligations.BrevTwiceDropsTrailingZeros : Prop :=
  (∀ u k, u % 2 = 1 → 2 ^ k * u < 2 ^ 32 → brev (brev (2 ^ k * u)) = u) ∧
  (∀ v, v < 2 ^ 32 → (brev (brev v) = v ↔ v = 0 ∨ v % 2 = 1)) ∧
  ∀ v, v < 2 ^ 32 → brevn (brevn v 32) 32 = v

/-- R161, R163: `BREVN` reverses the low `ARG1` bits of `ARG0`; a size above 32 is an operand error. -/
def Obligations.BrevnReversesLowBits : Prop :=
  decode 0x00000009 = .ok .brevn ∧
  (∀ v n : Nat, (∀ j, j < n → (brevn v n).testBit (n - 1 - j) = v.testBit j) ∧
    ∀ j, n ≤ j → (brevn v n).testBit j = false) ∧
  ∀ s : State,
    (s.arg1.toNat ≤ 32 → ∃ t, exec .brevn s = .next t ∧ t = { s with res := t.res, err := .ok } ∧
      t.res.toNat = brevn s.arg0.toNat s.arg1.toNat) ∧
    (32 < s.arg1.toNat → exec .brevn s = .next { s with err := .operand })

/-- R166: `brevn` at a fixed size is an involution on the values below `2^s`, and two `REORDER` restore `X[0..N-1]` and `SEL`. -/
def Obligations.ReorderTwiceRestores : Prop :=
  (∀ v n, v < 2 ^ n → brevn v n < 2 ^ n ∧ brevn (brevn v n) n = v) ∧
  ∀ s : State, ValidLen s → ∃ t u, exec .reorder s = .next t ∧ exec .reorder t = .next u ∧ u.sel = s.sel ∧
    ∀ i, i < pts s → u.x i = s.x i

/-- R164: `REORDER` puts entry `i` at `brevn(i, LOG2N)` of the other buffer and flips; nothing else changes. -/
def Obligations.ReorderPermutes : Prop :=
  decode 0x0000000A = .ok .reorder ∧
  ∀ s : State,
    (ValidLen s → ∃ t, exec .reorder s = .next t ∧ Produced s t ∧
      (∀ i, i < pts s → t.x (brevn i s.log2n.toNat) = s.x i) ∧ ∀ i, t.z i = s.x i) ∧
    (¬ ValidLen s → exec .reorder s = .next { s with err := .length })

/-! ### The twiddle ROM -/

/-- R185, R186: `TWLD` returns `TW[ARG0 << (13 - LOG2N)]`, at index 0 `(1.0, -0)`; its errors; nothing else changes. -/
def Obligations.TwldReadsTheRom : Prop :=
  decode 0x00000010 = .ok .twld ∧
  ∀ s : State,
    (ValidLen s → s.arg0.toNat < pts s →
      exec .twld s = .next { s with
        fr0 := (tw (s.arg0.toNat * 2 ^ (13 - s.log2n.toNat))).re,
        fr1 := (tw (s.arg0.toNat * 2 ^ (13 - s.log2n.toNat))).im, err := .ok }) ∧
    (ValidLen s → s.arg0 = 0 →
      exec .twld s = .next { s with fr0 := 0x3FF0000000000000, fr1 := 0x8000000000000000, err := .ok }) ∧
    (¬ ValidLen s → exec .twld s = .next { s with err := .length }) ∧
    (ValidLen s → pts s ≤ s.arg0.toNat → exec .twld s = .next { s with err := .operand })

/-- R181, R182, R187: the arguments of the ROM's entries, and the entries by magnitudes. -/
def Obligations.TwiddleArguments : Prop :=
  twiddleArg 0 = negZero ∧
  ∀ j : Nat, 1 ≤ j → j ≤ 8191 →
    IsRounding (-(realValue k2) * (j : ℝ) / 8192) (twiddleArg j) ∧
    -(realValue k2) < realValue (twiddleArg j) ∧ realValue (twiddleArg j) < 0 ∧
    tw j = ⟨cosF (fabs (twiddleArg j)), fneg (sinF (fabs (twiddleArg j)))⟩

/-- R184: the document's doubling construction gives the ROM's strided view at every size. -/
def Obligations.DoublingConstructionAgrees : Prop :=
  (∀ k n, 1 ≤ k → k ≤ 12 → n < 2 ^ k → directEntry (2 ^ (k + 1)) (2 * n) = directEntry (2 ^ k) n) ∧
  ∀ k n, 1 ≤ k → k ≤ 13 → n < 2 ^ k → directEntry (2 ^ k) n = tw (n * 2 ^ (13 - k)) ∧ twiddle k n = tw (n * 2 ^ (13 - k))

/-! ### Transforms -/

/-- R202, R203: `CMUL`, part by part; a NaN part makes both results the canonical NaN; multiplying finite parts by `(1.0, -0)` keeps
the non-zero ones and keeps zeros zero. -/
def Obligations.CmulCommand : Prop :=
  decode 0x00000003 = .ok .cmul ∧
  (∀ s : State,
    exec .cmul s = .next { s with
      fr0 := fsub (fmul s.fa0 s.fb0) (fmul s.fa1 s.fb1), fr1 := fadd (fmul s.fa0 s.fb1) (fmul s.fa1 s.fb0), err := .ok }) ∧
  (∀ x y : C64, isNaN x.re = true ∨ isNaN x.im = true ∨ isNaN y.re = true ∨ isNaN y.im = true →
    cmul x y = ⟨qNaN, qNaN⟩) ∧
  ∀ x : C64, isFinite x.re = true → isFinite x.im = true →
    (isZero x.re = false → (cmul x ⟨one, negZero⟩).re = x.re) ∧
    (isZero x.re = true → isZero (cmul x ⟨one, negZero⟩).re = true) ∧
    (isZero x.im = false → (cmul x ⟨one, negZero⟩).im = x.im) ∧
    (isZero x.im = true → isZero (cmul x ⟨one, negZero⟩).im = true)

/-- R204, R205: one butterfly stage: every output entry, the frame, and the errors. -/
def Obligations.StageButterflies : Prop :=
  (∀ a : BitVec 8, decode (0x00000018#32 ||| a.setWidth 32 <<< 8) = .ok (.stage a)) ∧
  ∀ (s : State) (a : BitVec 8),
    (ValidLen s → 1 ≤ a.toNat → a.toNat ≤ s.log2n.toNat → ∃ t, exec (.stage a) s = .next t ∧ Produced s t ∧
      (∀ i, t.z i = s.x i) ∧
      (a.toNat = 1 → ∀ b, b < pts s / 2 →
        t.x (2 * b) = cadd (s.x (2 * b)) (s.x (2 * b + 1)) ∧ t.x (2 * b + 1) = csub (s.x (2 * b)) (s.x (2 * b + 1))) ∧
      (2 ≤ a.toNat → ∀ i q, i < pts s / 2 ^ a.toNat → q < 2 ^ (a.toNat - 1) →
        t.x (i * 2 ^ a.toNat + q) = cadd (s.x (i * 2 ^ a.toNat + q))
          (cmul (s.x (i * 2 ^ a.toNat + q + 2 ^ (a.toNat - 1)))
            (tw (pts s / 2 ^ a.toNat * q * 2 ^ (13 - s.log2n.toNat)))) ∧
        t.x (i * 2 ^ a.toNat + q + 2 ^ (a.toNat - 1)) = csub (s.x (i * 2 ^ a.toNat + q))
          (cmul (s.x (i * 2 ^ a.toNat + q + 2 ^ (a.toNat - 1)))
            (tw (pts s / 2 ^ a.toNat * q * 2 ^ (13 - s.log2n.toNat)))))) ∧
    (¬ ValidLen s → exec (.stage a) s = .next { s with err := .length }) ∧
    (ValidLen s → a.toNat = 0 ∨ s.log2n.toNat < a.toNat → exec (.stage a) s = .next { s with err := .operand })

/-- R207: `REVCOPY`; two of them restore `X[0..N-1]`. -/
def Obligations.RevcopyReverses : Prop :=
  decode 0x0000001A = .ok .revcopy ∧
  ∀ s : State,
    (ValidLen s → ∃ t, exec .revcopy s = .next t ∧ Produced s t ∧ t.x 0 = s.x 0 ∧
      (∀ i, 1 ≤ i → i < pts s → t.x i = s.x (pts s - i)) ∧ (∀ i, t.z i = s.x i) ∧
      ∃ u, exec .revcopy t = .next u ∧ ∀ i, i < pts s → u.x i = s.x i) ∧
    (¬ ValidLen s → exec .revcopy s = .next { s with err := .length })

/-- R208: `SCALE` divides each part of `X[0..N-1]` by `Nf`, in place. -/
def Obligations.ScaleDividesByN : Prop :=
  decode 0x0000001B = .ok .scale ∧
  ∀ s : State,
    (ValidLen s → ∃ t, exec .scale s = .next t ∧ WroteInPlace s t s.working (2 * pts s) ∧
      ∀ i, i < pts s → t.x i = ⟨fdiv (s.x i).re (i2f (pts s)), fdiv (s.x i).im (i2f (pts s))⟩) ∧
    (¬ ValidLen s → exec .scale s = .next { s with err := .length })

/-- R210: `CMULV` multiplies `X[0..N-1]` by `Y[0..N-1]`, in place. -/
def Obligations.CmulvMultipliesPointwise : Prop :=
  decode 0x0000001D = .ok .cmulv ∧
  ∀ s : State,
    (ValidLen s → s.ylog2n = s.log2n → ∃ t, exec .cmulv s = .next t ∧ WroteInPlace s t s.working (2 * pts s) ∧
      ∀ i, i < pts s → t.x i = cmul (s.yEntry i) (s.x i)) ∧
    (¬ ValidLen s → exec .cmulv s = .next { s with err := .length }) ∧
    (ValidLen s → s.ylog2n ≠ s.log2n → exec .cmulv s = .next { s with err := .mismatch })

/-- R211: `XCHG` exchanges `X[0..N-1]` and `Y[0..N-1]`; two of them restore both. -/
def Obligations.XchgExchanges : Prop :=
  decode 0x0000001E = .ok .xchg ∧
  ∀ s : State,
    (ValidLen s → s.ylog2n = s.log2n → ∃ t, exec .xchg s = .next t ∧ t.err = .ok ∧ t.sel = s.sel ∧
      registers t = registers s ∧ MemFrame s t (fun n k => (n = s.working ∨ n = .y) ∧ k < 2 * pts s) ∧
      (∀ i, i < pts s → t.x i = s.yEntry i ∧ t.yEntry i = s.x i) ∧
      ∃ u, exec .xchg t = .next u ∧ ∀ i, i < pts s → u.x i = s.x i ∧ u.yEntry i = s.yEntry i) ∧
    (¬ ValidLen s → exec .xchg s = .next { s with err := .length }) ∧
    (ValidLen s → s.ylog2n ≠ s.log2n → exec .xchg s = .next { s with err := .mismatch })

/-- R206, R209, R212, R277, R213: when its checks pass, a composite command ends in the very state in which its primitive
commands, issued one after the other, end; when one fails, nothing but `STATUS.ERR` changes. -/
def Obligations.CompositesArePrimitiveSequences : Prop :=
  (decode 0x00000019 = .ok .fft ∧ decode 0x0000001C = .ok .ifft ∧ decode 0x0000001F = .ok .conv ∧
    decode 0x0000002A = .ok (.analyze 0) ∧ decode 0x0000012A = .ok (.analyze 1)) ∧
  ∀ s : State,
    (ValidLen s →
      (∃ t, exec .fft s = .next t ∧ runAll (.reorder :: stages s.log2n.toNat) s = .next t ∧ t.err = .ok) ∧
      (∃ t, exec .ifft s = .next t ∧ runAll [.revcopy, .fft, .scale] s = .next t ∧ t.err = .ok) ∧
      (s.ylog2n = s.log2n →
        ∃ t, exec .conv s = .next t ∧ runAll [.fft, .xchg, .fft, .cmulv, .ifft] s = .next t ∧ t.err = .ok) ∧
      (s.ylog2n ≠ s.log2n → exec .conv s = .next { s with err := .mismatch }) ∧
      (∃ t, exec (.analyze 0) s = .next t ∧ runAll [.lift, .fft, .mag] s = .next t ∧ t.err = .ok) ∧
      (s.wlen.toNat = pts s →
        ∃ t, exec (.analyze 1) s = .next t ∧ runAll [.wapply, .lift, .fft, .mag] s = .next t ∧ t.err = .ok) ∧
      (s.wlen.toNat ≠ pts s → exec (.analyze 1) s = .next { s with err := .mismatch })) ∧
    (¬ ValidLen s → exec .fft s = .next { s with err := .length } ∧ exec .ifft s = .next { s with err := .length } ∧
      exec .conv s = .next { s with err := .length } ∧ exec (.analyze 0) s = .next { s with err := .length } ∧
      exec (.analyze 1) s = .next { s with err := .length }) ∧
    ∀ a : BitVec 8, 1 < a.toNat → exec (.analyze a) s = .next { s with err := .illegal }

/-- The frames of the composite commands: what `FFT`, `IFFT`, `CONV` and `ANALYZE` may change when they succeed (R206, R209, R212,
R277), and the count `ANALYZE` leaves. -/
def Obligations.CompositeFrames : Prop :=
  ∀ s t : State, t.err = .ok →
    (exec .fft s = .next t ∨ exec .ifft s = .next t → registers t = registers s ∧
      MemFrame s t (fun n k => (n = .xa ∨ n = .xb) ∧ k < 2 * pts s)) ∧
    (exec .conv s = .next t → registers t = registers s ∧
      MemFrame s t (fun n k => (n = .xa ∨ n = .xb ∨ n = .y) ∧ k < 2 * pts s)) ∧
    ∀ a, exec (.analyze a) s = .next t →
      registers t = { registers s with olen := t.olen } ∧ t.olen.toNat = pts s / 2 - 1 ∧
      (∀ n k, ¬ (((n = .xa ∨ n = .xb) ∧ k < 2 * pts s) ∨ (n = .s ∧ a = 1 ∧ k < pts s) ∨
        (n = .om ∧ k < pts s / 2 - 1)) → t.word n k = s.word n k) ∧
      ∀ j, pts s / 2 - 1 ≤ j → t.freq j = s.freq j

/-- R206: the transform of an impulse is all ones, at every length and for every kernel. -/
def Obligations.FftOfImpulseIsOnes : Prop :=
  ∀ s : State, ValidLen s → s.x 0 = ⟨one, posZero⟩ → (∀ i, 1 ≤ i → i < pts s → s.x i = ⟨posZero, posZero⟩) →
    ∃ t, exec .fft s = .next t ∧ t.sel = (s.sel != decide ((s.log2n.toNat + 1) % 2 = 1)) ∧
      ∀ i, i < pts s → t.x i = ⟨one, posZero⟩

/-! ### Windows and sizes -/

/-- R240 to R247: `WGEN`: the coefficients of every kind and length, `WLEN`, the frame, and the errors. The angle is R241's
two-rounding formula at every `n`, at `n = L - 1` too, where that rule's remark `warg(K, L-1, L) = K` does not follow from it:
there the coefficient clause rests on the model's reading (log entry 11). -/
def Obligations.WgenWritesTheWindow : Prop :=
  (∀ a : BitVec 8, a.toNat ≤ 4 → decode (0x00000020#32 ||| a.setWidth 32 <<< 8) = .ok (.wgen a)) ∧
  ∀ (s : State) (a : BitVec 8),
    (a.toNat ≤ 4 → s.arg0.toNat ≤ 8192 → ∃ t, exec (.wgen a) s = .next t ∧ t.err = .ok ∧ t.sel = s.sel ∧
      t.wlen.toNat = s.arg0.toNat ∧ registers t = { registers s with wlen := t.wlen } ∧
      MemFrame s t (fun n k => n = .w ∧ k < s.arg0.toNat) ∧
      (s.arg0.toNat = 1 → t.word .w 0 = 0x3FF0000000000000) ∧
      (2 ≤ s.arg0.toNat → ∀ n, n < s.arg0.toNat → t.word .w n = windowFormula a.toNat n s.arg0.toNat)) ∧
    (4 < a.toNat → exec (.wgen a) s = .next { s with err := .illegal }) ∧
    (a.toNat ≤ 4 → 8192 < s.arg0.toNat → exec (.wgen a) s = .next { s with err := .operand })

/-- R242 to R246 at `n = 0`, and the end of Bartlett (R245): the same for every kernel. -/
def Obligations.WindowEndPoints : Prop :=
  ∀ (s : State) (a : BitVec 8), a.toNat ≤ 4 → 2 ≤ s.arg0.toNat → s.arg0.toNat ≤ 8192 →
    ∃ t, exec (.wgen a) s = .next t ∧ t.word .w 0 = startValue a.toNat ∧
      (a.toNat = 3 → t.word .w (s.arg0.toNat - 1) = posZero)

/-- R250: `WAPPLY` multiplies `S[0..N-1]` by `W[0..N-1]`, in place. -/
def Obligations.WapplyMultipliesSamples : Prop :=
  decode 0x00000021 = .ok .wapply ∧
  ∀ s : State,
    (ValidLen s → s.wlen.toNat = pts s → ∃ t, exec .wapply s = .next t ∧ WroteInPlace s t .s (pts s) ∧
      ∀ i, i < pts s → t.word .s i = fmul (s.word .s i) (s.word .w i)) ∧
    (¬ ValidLen s → exec .wapply s = .next { s with err := .length }) ∧
    (ValidLen s → s.wlen.toNat ≠ pts s → exec .wapply s = .next { s with err := .mismatch })

/-- R258: `RESOLVE` gives the smallest member not below `ARG0`, or 8192; a member gives itself; the result is monotonic. -/
def Obligations.ResolveGivesSmallestMember : Prop :=
  decode 0x00000022 = .ok .resolve ∧
  (∀ s : State, ∃ t, exec .resolve s = .next t ∧ t = { s with res := t.res, err := .ok } ∧
    (∃ e, 3 ≤ e ∧ e ≤ 13 ∧ t.res.toNat = 2 ^ e) ∧
    (s.arg0.toNat ≤ 8192 → s.arg0.toNat ≤ t.res.toNat ∧
      ∀ e, 3 ≤ e → e ≤ 13 → s.arg0.toNat ≤ 2 ^ e → t.res.toNat ≤ 2 ^ e) ∧
    (8192 < s.arg0.toNat → t.res.toNat = 8192) ∧
    ∀ e, 3 ≤ e → e ≤ 13 → s.arg0.toNat = 2 ^ e → t.res = s.arg0) ∧
  ∀ s s' t t' : State, s.arg0.toNat ≤ s'.arg0.toNat → exec .resolve s = .next t → exec .resolve s' = .next t' →
    t.res.toNat ≤ t'.res.toNat

/-- R259: `ASBLOCK` gives `ARG0` when it is a member of the set, else 1024. -/
def Obligations.AsblockTestsMembership : Prop :=
  decode 0x00000023 = .ok .asblock ∧
  ∀ s : State,
    ((∃ e, 3 ≤ e ∧ e ≤ 13 ∧ s.arg0.toNat = 2 ^ e) → exec .asblock s = .next { s with res := s.arg0, err := .ok }) ∧
    ((¬ ∃ e, 3 ≤ e ∧ e ≤ 13 ∧ s.arg0.toNat = 2 ^ e) → exec .asblock s = .next { s with res := 1024, err := .ok })

/-! ### The analyzer -/

/-- R270: `LIFT` makes `X[i]` of `S[i]`, the pattern kept and the imaginary part `+0`, in place. -/
def Obligations.LiftMakesComplexSamples : Prop :=
  decode 0x00000028 = .ok .lift ∧
  ∀ s : State,
    (ValidLen s → ∃ t, exec .lift s = .next t ∧ WroteInPlace s t s.working (2 * pts s) ∧
      ∀ i, i < pts s → t.x i = ⟨s.word .s i, 0x0000000000000000⟩) ∧
    (¬ ValidLen s → exec .lift s = .next { s with err := .length })

/-- R272, R125: `MAG`: the frequency and magnitude of every bin `1 .. N/2-1`, `OLEN`, and the frame. -/
def Obligations.MagComputesPairs : Prop :=
  decode 0x00000029 = .ok .mag ∧
  ∀ s : State,
    (ValidLen s → ∃ t, exec .mag s = .next t ∧ t.err = .ok ∧ t.sel = s.sel ∧ t.olen.toNat = pts s / 2 - 1 ∧
      registers t = { registers s with olen := t.olen } ∧
      (∀ i, 1 ≤ i → i ≤ pts s / 2 - 1 →
        (t.freq (i - 1)).toNat = i * s.srate.toNat / pts s ∧
        t.word .om (i - 1) = fsqrt (fadd (fmul (s.x i).re (s.x i).re) (fmul (s.x i).im (s.x i).im))) ∧
      (∀ n k, ¬ (n = .om ∧ k < pts s / 2 - 1) → t.word n k = s.word n k) ∧
      ∀ j, pts s / 2 - 1 ≤ j → t.freq j = s.freq j) ∧
    (¬ ValidLen s → exec .mag s = .next { s with err := .length })

/-- R275, R273: what `MAG` gives for NaN and infinite parts, without an error, and that a magnitude is never negative and never
`-0`. -/
def Obligations.MagnitudeSpecialValues : Prop :=
  ∀ s : State, ValidLen s → ∃ t, exec .mag s = .next t ∧ t.err = .ok ∧ ∀ i, 1 ≤ i → i ≤ pts s / 2 - 1 →
    (isNaN (s.x i).re = true ∨ isNaN (s.x i).im = true → t.word .om (i - 1) = 0x7FF8000000000000) ∧
    (isInf (s.x i).re = true ∧ isNaN (s.x i).im = false ∨ isInf (s.x i).im = true ∧ isNaN (s.x i).re = false →
      t.word .om (i - 1) = 0x7FF0000000000000) ∧
    signBit (t.word .om (i - 1)) = false

/-- R274, R125, R276, R278: after `MAG` the frequencies ascend with the bin, stay below half the sample rate, are zero at
sample rate zero, and bin 93 of 2048 at 44100 Hz is 2002 Hz. -/
def Obligations.FrequenciesAscendBelowNyquist : Prop :=
  ∀ s : State, ValidLen s → ∃ t, exec .mag s = .next t ∧
    (∀ i j, i ≤ j → j < pts s / 2 - 1 → (t.freq i).toNat ≤ (t.freq j).toNat) ∧
    (∀ j, j < pts s / 2 - 1 → 0 < s.srate.toNat → 2 * (t.freq j).toNat < s.srate.toNat) ∧
    (∀ j, j < pts s / 2 - 1 → s.srate = 0 → t.freq j = 0) ∧
    (s.log2n = 11 → s.srate = 44100 → t.freq 92 = 2002)

/-! ### NOP -/

/-- R290: `NOP` clears `STATUS.ERR` and changes nothing else, whatever the state; its word is 0, the reset value of `CMD`; with
`a = 1` it is illegal. -/
def Obligations.NopOnlyClearsErr : Prop :=
  (∀ s : State, exec .nop s = .next { s with err := .ok } ∧
    step (s.offer (.write 0 0)) = .next { s with cmd := 0, err := .ok }) ∧
  decode 0x00000000 = .ok .nop ∧ (∃ e, decode 0x00000100 = .error e) ∧ State.reset.cmd = encode .nop
end

