-- ==== Sys2Proof/Laws/State.lean ====
section
/-! SUPPORT. One lemma per field per update of the state, true by computation and tagged for `simp`, so that no later proof
unfolds a record update. -/

namespace Sys2Proof.Machine

/-! ### `raise`, `succeed` -/

@[simp] theorem raise_cmd (e : Err) (s : State) : (raise e s).cmd = s.cmd := rfl
@[simp] theorem raise_err (e : Err) (s : State) : (raise e s).err = e := rfl
@[simp] theorem raise_sel (e : Err) (s : State) : (raise e s).sel = s.sel := rfl
@[simp] theorem raise_log2n (e : Err) (s : State) : (raise e s).log2n = s.log2n := rfl
@[simp] theorem raise_ylog2n (e : Err) (s : State) : (raise e s).ylog2n = s.ylog2n := rfl
@[simp] theorem raise_srate (e : Err) (s : State) : (raise e s).srate = s.srate := rfl
@[simp] theorem raise_wlen (e : Err) (s : State) : (raise e s).wlen = s.wlen := rfl
@[simp] theorem raise_olen (e : Err) (s : State) : (raise e s).olen = s.olen := rfl
@[simp] theorem raise_arg0 (e : Err) (s : State) : (raise e s).arg0 = s.arg0 := rfl
@[simp] theorem raise_arg1 (e : Err) (s : State) : (raise e s).arg1 = s.arg1 := rfl
@[simp] theorem raise_res (e : Err) (s : State) : (raise e s).res = s.res := rfl
@[simp] theorem raise_fa0 (e : Err) (s : State) : (raise e s).fa0 = s.fa0 := rfl
@[simp] theorem raise_fa1 (e : Err) (s : State) : (raise e s).fa1 = s.fa1 := rfl
@[simp] theorem raise_fb0 (e : Err) (s : State) : (raise e s).fb0 = s.fb0 := rfl
@[simp] theorem raise_fb1 (e : Err) (s : State) : (raise e s).fb1 = s.fb1 := rfl
@[simp] theorem raise_fr0 (e : Err) (s : State) : (raise e s).fr0 = s.fr0 := rfl
@[simp] theorem raise_fr1 (e : Err) (s : State) : (raise e s).fr1 = s.fr1 := rfl
@[simp] theorem raise_memXA (e : Err) (s : State) : (raise e s).memXA = s.memXA := rfl
@[simp] theorem raise_memXB (e : Err) (s : State) : (raise e s).memXB = s.memXB := rfl
@[simp] theorem raise_memY (e : Err) (s : State) : (raise e s).memY = s.memY := rfl
@[simp] theorem raise_memS (e : Err) (s : State) : (raise e s).memS = s.memS := rfl
@[simp] theorem raise_memW (e : Err) (s : State) : (raise e s).memW = s.memW := rfl
@[simp] theorem raise_memOM (e : Err) (s : State) : (raise e s).memOM = s.memOM := rfl
@[simp] theorem raise_memOF (e : Err) (s : State) : (raise e s).memOF = s.memOF := rfl
@[simp] theorem raise_freeCount (e : Err) (s : State) : (raise e s).freeCount = s.freeCount := rfl
@[simp] theorem raise_resets (e : Err) (s : State) : (raise e s).resets = s.resets := rfl
@[simp] theorem raise_port (e : Err) (s : State) : (raise e s).port = s.port := rfl

@[simp] theorem succeed_cmd (s : State) : (succeed s).cmd = s.cmd := rfl
@[simp] theorem succeed_err (s : State) : (succeed s).err = .ok := rfl
@[simp] theorem succeed_sel (s : State) : (succeed s).sel = s.sel := rfl
@[simp] theorem succeed_log2n (s : State) : (succeed s).log2n = s.log2n := rfl
@[simp] theorem succeed_ylog2n (s : State) : (succeed s).ylog2n = s.ylog2n := rfl
@[simp] theorem succeed_srate (s : State) : (succeed s).srate = s.srate := rfl
@[simp] theorem succeed_wlen (s : State) : (succeed s).wlen = s.wlen := rfl
@[simp] theorem succeed_olen (s : State) : (succeed s).olen = s.olen := rfl
@[simp] theorem succeed_arg0 (s : State) : (succeed s).arg0 = s.arg0 := rfl
@[simp] theorem succeed_arg1 (s : State) : (succeed s).arg1 = s.arg1 := rfl
@[simp] theorem succeed_res (s : State) : (succeed s).res = s.res := rfl
@[simp] theorem succeed_fa0 (s : State) : (succeed s).fa0 = s.fa0 := rfl
@[simp] theorem succeed_fa1 (s : State) : (succeed s).fa1 = s.fa1 := rfl
@[simp] theorem succeed_fb0 (s : State) : (succeed s).fb0 = s.fb0 := rfl
@[simp] theorem succeed_fb1 (s : State) : (succeed s).fb1 = s.fb1 := rfl
@[simp] theorem succeed_fr0 (s : State) : (succeed s).fr0 = s.fr0 := rfl
@[simp] theorem succeed_fr1 (s : State) : (succeed s).fr1 = s.fr1 := rfl
@[simp] theorem succeed_memXA (s : State) : (succeed s).memXA = s.memXA := rfl
@[simp] theorem succeed_memXB (s : State) : (succeed s).memXB = s.memXB := rfl
@[simp] theorem succeed_memY (s : State) : (succeed s).memY = s.memY := rfl
@[simp] theorem succeed_memS (s : State) : (succeed s).memS = s.memS := rfl
@[simp] theorem succeed_memW (s : State) : (succeed s).memW = s.memW := rfl
@[simp] theorem succeed_memOM (s : State) : (succeed s).memOM = s.memOM := rfl
@[simp] theorem succeed_memOF (s : State) : (succeed s).memOF = s.memOF := rfl
@[simp] theorem succeed_freeCount (s : State) : (succeed s).freeCount = s.freeCount := rfl
@[simp] theorem succeed_resets (s : State) : (succeed s).resets = s.resets := rfl
@[simp] theorem succeed_port (s : State) : (succeed s).port = s.port := rfl

/-! ### `flip` -/

@[simp] theorem State.flip_cmd (s : State) : (s.flip).cmd = s.cmd := rfl
@[simp] theorem State.flip_err (s : State) : (s.flip).err = s.err := rfl
@[simp] theorem State.flip_sel (s : State) : (s.flip).sel = (!s.sel) := rfl
@[simp] theorem State.flip_log2n (s : State) : (s.flip).log2n = s.log2n := rfl
@[simp] theorem State.flip_ylog2n (s : State) : (s.flip).ylog2n = s.ylog2n := rfl
@[simp] theorem State.flip_srate (s : State) : (s.flip).srate = s.srate := rfl
@[simp] theorem State.flip_wlen (s : State) : (s.flip).wlen = s.wlen := rfl
@[simp] theorem State.flip_olen (s : State) : (s.flip).olen = s.olen := rfl
@[simp] theorem State.flip_arg0 (s : State) : (s.flip).arg0 = s.arg0 := rfl
@[simp] theorem State.flip_arg1 (s : State) : (s.flip).arg1 = s.arg1 := rfl
@[simp] theorem State.flip_res (s : State) : (s.flip).res = s.res := rfl
@[simp] theorem State.flip_fa0 (s : State) : (s.flip).fa0 = s.fa0 := rfl
@[simp] theorem State.flip_fa1 (s : State) : (s.flip).fa1 = s.fa1 := rfl
@[simp] theorem State.flip_fb0 (s : State) : (s.flip).fb0 = s.fb0 := rfl
@[simp] theorem State.flip_fb1 (s : State) : (s.flip).fb1 = s.fb1 := rfl
@[simp] theorem State.flip_fr0 (s : State) : (s.flip).fr0 = s.fr0 := rfl
@[simp] theorem State.flip_fr1 (s : State) : (s.flip).fr1 = s.fr1 := rfl
@[simp] theorem State.flip_memXA (s : State) : (s.flip).memXA = s.memXA := rfl
@[simp] theorem State.flip_memXB (s : State) : (s.flip).memXB = s.memXB := rfl
@[simp] theorem State.flip_memY (s : State) : (s.flip).memY = s.memY := rfl
@[simp] theorem State.flip_memS (s : State) : (s.flip).memS = s.memS := rfl
@[simp] theorem State.flip_memW (s : State) : (s.flip).memW = s.memW := rfl
@[simp] theorem State.flip_memOM (s : State) : (s.flip).memOM = s.memOM := rfl
@[simp] theorem State.flip_memOF (s : State) : (s.flip).memOF = s.memOF := rfl
@[simp] theorem State.flip_freeCount (s : State) : (s.flip).freeCount = s.freeCount := rfl
@[simp] theorem State.flip_resets (s : State) : (s.flip).resets = s.resets := rfl
@[simp] theorem State.flip_port (s : State) : (s.flip).port = s.port := rfl

/-! ### `setMem` -/

@[simp] theorem State.setMem_cmd (s : State) (n : MemName) (m : Memory Word) : (s.setMem n m).cmd = s.cmd := by cases n <;> rfl
@[simp] theorem State.setMem_err (s : State) (n : MemName) (m : Memory Word) : (s.setMem n m).err = s.err := by cases n <;> rfl
@[simp] theorem State.setMem_sel (s : State) (n : MemName) (m : Memory Word) : (s.setMem n m).sel = s.sel := by cases n <;> rfl
@[simp] theorem State.setMem_log2n (s : State) (n : MemName) (m : Memory Word) : (s.setMem n m).log2n = s.log2n := by cases n <;> rfl
@[simp] theorem State.setMem_ylog2n (s : State) (n : MemName) (m : Memory Word) : (s.setMem n m).ylog2n = s.ylog2n := by cases n <;> rfl
@[simp] theorem State.setMem_srate (s : State) (n : MemName) (m : Memory Word) : (s.setMem n m).srate = s.srate := by cases n <;> rfl
@[simp] theorem State.setMem_wlen (s : State) (n : MemName) (m : Memory Word) : (s.setMem n m).wlen = s.wlen := by cases n <;> rfl
@[simp] theorem State.setMem_olen (s : State) (n : MemName) (m : Memory Word) : (s.setMem n m).olen = s.olen := by cases n <;> rfl
@[simp] theorem State.setMem_arg0 (s : State) (n : MemName) (m : Memory Word) : (s.setMem n m).arg0 = s.arg0 := by cases n <;> rfl
@[simp] theorem State.setMem_arg1 (s : State) (n : MemName) (m : Memory Word) : (s.setMem n m).arg1 = s.arg1 := by cases n <;> rfl
@[simp] theorem State.setMem_res (s : State) (n : MemName) (m : Memory Word) : (s.setMem n m).res = s.res := by cases n <;> rfl
@[simp] theorem State.setMem_fa0 (s : State) (n : MemName) (m : Memory Word) : (s.setMem n m).fa0 = s.fa0 := by cases n <;> rfl
@[simp] theorem State.setMem_fa1 (s : State) (n : MemName) (m : Memory Word) : (s.setMem n m).fa1 = s.fa1 := by cases n <;> rfl
@[simp] theorem State.setMem_fb0 (s : State) (n : MemName) (m : Memory Word) : (s.setMem n m).fb0 = s.fb0 := by cases n <;> rfl
@[simp] theorem State.setMem_fb1 (s : State) (n : MemName) (m : Memory Word) : (s.setMem n m).fb1 = s.fb1 := by cases n <;> rfl
@[simp] theorem State.setMem_fr0 (s : State) (n : MemName) (m : Memory Word) : (s.setMem n m).fr0 = s.fr0 := by cases n <;> rfl
@[simp] theorem State.setMem_fr1 (s : State) (n : MemName) (m : Memory Word) : (s.setMem n m).fr1 = s.fr1 := by cases n <;> rfl
@[simp] theorem State.setMem_memOF (s : State) (n : MemName) (m : Memory Word) : (s.setMem n m).memOF = s.memOF := by cases n <;> rfl
@[simp] theorem State.setMem_freeCount (s : State) (n : MemName) (m : Memory Word) : (s.setMem n m).freeCount = s.freeCount := by cases n <;> rfl
@[simp] theorem State.setMem_resets (s : State) (n : MemName) (m : Memory Word) : (s.setMem n m).resets = s.resets := by cases n <;> rfl
@[simp] theorem State.setMem_port (s : State) (n : MemName) (m : Memory Word) : (s.setMem n m).port = s.port := by cases n <;> rfl

/-! ### `setWord` -/

@[simp] theorem State.setWord_cmd (s : State) (n : MemName) (k : Nat) (v : Word) : (s.setWord n k v).cmd = s.cmd := by simp [State.setWord]
@[simp] theorem State.setWord_err (s : State) (n : MemName) (k : Nat) (v : Word) : (s.setWord n k v).err = s.err := by simp [State.setWord]
@[simp] theorem State.setWord_sel (s : State) (n : MemName) (k : Nat) (v : Word) : (s.setWord n k v).sel = s.sel := by simp [State.setWord]
@[simp] theorem State.setWord_log2n (s : State) (n : MemName) (k : Nat) (v : Word) : (s.setWord n k v).log2n = s.log2n := by simp [State.setWord]
@[simp] theorem State.setWord_ylog2n (s : State) (n : MemName) (k : Nat) (v : Word) : (s.setWord n k v).ylog2n = s.ylog2n := by simp [State.setWord]
@[simp] theorem State.setWord_srate (s : State) (n : MemName) (k : Nat) (v : Word) : (s.setWord n k v).srate = s.srate := by simp [State.setWord]
@[simp] theorem State.setWord_wlen (s : State) (n : MemName) (k : Nat) (v : Word) : (s.setWord n k v).wlen = s.wlen := by simp [State.setWord]
@[simp] theorem State.setWord_olen (s : State) (n : MemName) (k : Nat) (v : Word) : (s.setWord n k v).olen = s.olen := by simp [State.setWord]
@[simp] theorem State.setWord_arg0 (s : State) (n : MemName) (k : Nat) (v : Word) : (s.setWord n k v).arg0 = s.arg0 := by simp [State.setWord]
@[simp] theorem State.setWord_arg1 (s : State) (n : MemName) (k : Nat) (v : Word) : (s.setWord n k v).arg1 = s.arg1 := by simp [State.setWord]
@[simp] theorem State.setWord_res (s : State) (n : MemName) (k : Nat) (v : Word) : (s.setWord n k v).res = s.res := by simp [State.setWord]
@[simp] theorem State.setWord_fa0 (s : State) (n : MemName) (k : Nat) (v : Word) : (s.setWord n k v).fa0 = s.fa0 := by simp [State.setWord]
@[simp] theorem State.setWord_fa1 (s : State) (n : MemName) (k : Nat) (v : Word) : (s.setWord n k v).fa1 = s.fa1 := by simp [State.setWord]
@[simp] theorem State.setWord_fb0 (s : State) (n : MemName) (k : Nat) (v : Word) : (s.setWord n k v).fb0 = s.fb0 := by simp [State.setWord]
@[simp] theorem State.setWord_fb1 (s : State) (n : MemName) (k : Nat) (v : Word) : (s.setWord n k v).fb1 = s.fb1 := by simp [State.setWord]
@[simp] theorem State.setWord_fr0 (s : State) (n : MemName) (k : Nat) (v : Word) : (s.setWord n k v).fr0 = s.fr0 := by simp [State.setWord]
@[simp] theorem State.setWord_fr1 (s : State) (n : MemName) (k : Nat) (v : Word) : (s.setWord n k v).fr1 = s.fr1 := by simp [State.setWord]
@[simp] theorem State.setWord_memOF (s : State) (n : MemName) (k : Nat) (v : Word) : (s.setWord n k v).memOF = s.memOF := by simp [State.setWord]
@[simp] theorem State.setWord_freeCount (s : State) (n : MemName) (k : Nat) (v : Word) : (s.setWord n k v).freeCount = s.freeCount := by simp [State.setWord]
@[simp] theorem State.setWord_resets (s : State) (n : MemName) (k : Nat) (v : Word) : (s.setWord n k v).resets = s.resets := by simp [State.setWord]
@[simp] theorem State.setWord_port (s : State) (n : MemName) (k : Nat) (v : Word) : (s.setWord n k v).port = s.port := by simp [State.setWord]

/-! ### `putEntries`, `putWords`, `putFreqs` -/

@[simp] theorem State.putEntries_cmd (s : State) (m : MemName) (n : Nat) (f : Nat → C64) : (s.putEntries m n f).cmd = s.cmd := by simp [State.putEntries]
@[simp] theorem State.putEntries_err (s : State) (m : MemName) (n : Nat) (f : Nat → C64) : (s.putEntries m n f).err = s.err := by simp [State.putEntries]
@[simp] theorem State.putEntries_sel (s : State) (m : MemName) (n : Nat) (f : Nat → C64) : (s.putEntries m n f).sel = s.sel := by simp [State.putEntries]
@[simp] theorem State.putEntries_log2n (s : State) (m : MemName) (n : Nat) (f : Nat → C64) : (s.putEntries m n f).log2n = s.log2n := by simp [State.putEntries]
@[simp] theorem State.putEntries_ylog2n (s : State) (m : MemName) (n : Nat) (f : Nat → C64) : (s.putEntries m n f).ylog2n = s.ylog2n := by simp [State.putEntries]
@[simp] theorem State.putEntries_srate (s : State) (m : MemName) (n : Nat) (f : Nat → C64) : (s.putEntries m n f).srate = s.srate := by simp [State.putEntries]
@[simp] theorem State.putEntries_wlen (s : State) (m : MemName) (n : Nat) (f : Nat → C64) : (s.putEntries m n f).wlen = s.wlen := by simp [State.putEntries]
@[simp] theorem State.putEntries_olen (s : State) (m : MemName) (n : Nat) (f : Nat → C64) : (s.putEntries m n f).olen = s.olen := by simp [State.putEntries]
@[simp] theorem State.putEntries_arg0 (s : State) (m : MemName) (n : Nat) (f : Nat → C64) : (s.putEntries m n f).arg0 = s.arg0 := by simp [State.putEntries]
@[simp] theorem State.putEntries_arg1 (s : State) (m : MemName) (n : Nat) (f : Nat → C64) : (s.putEntries m n f).arg1 = s.arg1 := by simp [State.putEntries]
@[simp] theorem State.putEntries_res (s : State) (m : MemName) (n : Nat) (f : Nat → C64) : (s.putEntries m n f).res = s.res := by simp [State.putEntries]
@[simp] theorem State.putEntries_fa0 (s : State) (m : MemName) (n : Nat) (f : Nat → C64) : (s.putEntries m n f).fa0 = s.fa0 := by simp [State.putEntries]
@[simp] theorem State.putEntries_fa1 (s : State) (m : MemName) (n : Nat) (f : Nat → C64) : (s.putEntries m n f).fa1 = s.fa1 := by simp [State.putEntries]
@[simp] theorem State.putEntries_fb0 (s : State) (m : MemName) (n : Nat) (f : Nat → C64) : (s.putEntries m n f).fb0 = s.fb0 := by simp [State.putEntries]
@[simp] theorem State.putEntries_fb1 (s : State) (m : MemName) (n : Nat) (f : Nat → C64) : (s.putEntries m n f).fb1 = s.fb1 := by simp [State.putEntries]
@[simp] theorem State.putEntries_fr0 (s : State) (m : MemName) (n : Nat) (f : Nat → C64) : (s.putEntries m n f).fr0 = s.fr0 := by simp [State.putEntries]
@[simp] theorem State.putEntries_fr1 (s : State) (m : MemName) (n : Nat) (f : Nat → C64) : (s.putEntries m n f).fr1 = s.fr1 := by simp [State.putEntries]
@[simp] theorem State.putEntries_memOF (s : State) (m : MemName) (n : Nat) (f : Nat → C64) : (s.putEntries m n f).memOF = s.memOF := by simp [State.putEntries]
@[simp] theorem State.putEntries_freeCount (s : State) (m : MemName) (n : Nat) (f : Nat → C64) : (s.putEntries m n f).freeCount = s.freeCount := by simp [State.putEntries]
@[simp] theorem State.putEntries_resets (s : State) (m : MemName) (n : Nat) (f : Nat → C64) : (s.putEntries m n f).resets = s.resets := by simp [State.putEntries]
@[simp] theorem State.putEntries_port (s : State) (m : MemName) (n : Nat) (f : Nat → C64) : (s.putEntries m n f).port = s.port := by simp [State.putEntries]

@[simp] theorem State.putWords_cmd (s : State) (m : MemName) (n : Nat) (f : Nat → F64) : (s.putWords m n f).cmd = s.cmd := by simp [State.putWords]
@[simp] theorem State.putWords_err (s : State) (m : MemName) (n : Nat) (f : Nat → F64) : (s.putWords m n f).err = s.err := by simp [State.putWords]
@[simp] theorem State.putWords_sel (s : State) (m : MemName) (n : Nat) (f : Nat → F64) : (s.putWords m n f).sel = s.sel := by simp [State.putWords]
@[simp] theorem State.putWords_log2n (s : State) (m : MemName) (n : Nat) (f : Nat → F64) : (s.putWords m n f).log2n = s.log2n := by simp [State.putWords]
@[simp] theorem State.putWords_ylog2n (s : State) (m : MemName) (n : Nat) (f : Nat → F64) : (s.putWords m n f).ylog2n = s.ylog2n := by simp [State.putWords]
@[simp] theorem State.putWords_srate (s : State) (m : MemName) (n : Nat) (f : Nat → F64) : (s.putWords m n f).srate = s.srate := by simp [State.putWords]
@[simp] theorem State.putWords_wlen (s : State) (m : MemName) (n : Nat) (f : Nat → F64) : (s.putWords m n f).wlen = s.wlen := by simp [State.putWords]
@[simp] theorem State.putWords_olen (s : State) (m : MemName) (n : Nat) (f : Nat → F64) : (s.putWords m n f).olen = s.olen := by simp [State.putWords]
@[simp] theorem State.putWords_arg0 (s : State) (m : MemName) (n : Nat) (f : Nat → F64) : (s.putWords m n f).arg0 = s.arg0 := by simp [State.putWords]
@[simp] theorem State.putWords_arg1 (s : State) (m : MemName) (n : Nat) (f : Nat → F64) : (s.putWords m n f).arg1 = s.arg1 := by simp [State.putWords]
@[simp] theorem State.putWords_res (s : State) (m : MemName) (n : Nat) (f : Nat → F64) : (s.putWords m n f).res = s.res := by simp [State.putWords]
@[simp] theorem State.putWords_fa0 (s : State) (m : MemName) (n : Nat) (f : Nat → F64) : (s.putWords m n f).fa0 = s.fa0 := by simp [State.putWords]
@[simp] theorem State.putWords_fa1 (s : State) (m : MemName) (n : Nat) (f : Nat → F64) : (s.putWords m n f).fa1 = s.fa1 := by simp [State.putWords]
@[simp] theorem State.putWords_fb0 (s : State) (m : MemName) (n : Nat) (f : Nat → F64) : (s.putWords m n f).fb0 = s.fb0 := by simp [State.putWords]
@[simp] theorem State.putWords_fb1 (s : State) (m : MemName) (n : Nat) (f : Nat → F64) : (s.putWords m n f).fb1 = s.fb1 := by simp [State.putWords]
@[simp] theorem State.putWords_fr0 (s : State) (m : MemName) (n : Nat) (f : Nat → F64) : (s.putWords m n f).fr0 = s.fr0 := by simp [State.putWords]
@[simp] theorem State.putWords_fr1 (s : State) (m : MemName) (n : Nat) (f : Nat → F64) : (s.putWords m n f).fr1 = s.fr1 := by simp [State.putWords]
@[simp] theorem State.putWords_memOF (s : State) (m : MemName) (n : Nat) (f : Nat → F64) : (s.putWords m n f).memOF = s.memOF := by simp [State.putWords]
@[simp] theorem State.putWords_freeCount (s : State) (m : MemName) (n : Nat) (f : Nat → F64) : (s.putWords m n f).freeCount = s.freeCount := by simp [State.putWords]
@[simp] theorem State.putWords_resets (s : State) (m : MemName) (n : Nat) (f : Nat → F64) : (s.putWords m n f).resets = s.resets := by simp [State.putWords]
@[simp] theorem State.putWords_port (s : State) (m : MemName) (n : Nat) (f : Nat → F64) : (s.putWords m n f).port = s.port := by simp [State.putWords]

@[simp] theorem State.putFreqs_cmd (s : State) (n : Nat) (f : Nat → U32) : (s.putFreqs n f).cmd = s.cmd := rfl
@[simp] theorem State.putFreqs_err (s : State) (n : Nat) (f : Nat → U32) : (s.putFreqs n f).err = s.err := rfl
@[simp] theorem State.putFreqs_sel (s : State) (n : Nat) (f : Nat → U32) : (s.putFreqs n f).sel = s.sel := rfl
@[simp] theorem State.putFreqs_log2n (s : State) (n : Nat) (f : Nat → U32) : (s.putFreqs n f).log2n = s.log2n := rfl
@[simp] theorem State.putFreqs_ylog2n (s : State) (n : Nat) (f : Nat → U32) : (s.putFreqs n f).ylog2n = s.ylog2n := rfl
@[simp] theorem State.putFreqs_srate (s : State) (n : Nat) (f : Nat → U32) : (s.putFreqs n f).srate = s.srate := rfl
@[simp] theorem State.putFreqs_wlen (s : State) (n : Nat) (f : Nat → U32) : (s.putFreqs n f).wlen = s.wlen := rfl
@[simp] theorem State.putFreqs_olen (s : State) (n : Nat) (f : Nat → U32) : (s.putFreqs n f).olen = s.olen := rfl
@[simp] theorem State.putFreqs_arg0 (s : State) (n : Nat) (f : Nat → U32) : (s.putFreqs n f).arg0 = s.arg0 := rfl
@[simp] theorem State.putFreqs_arg1 (s : State) (n : Nat) (f : Nat → U32) : (s.putFreqs n f).arg1 = s.arg1 := rfl
@[simp] theorem State.putFreqs_res (s : State) (n : Nat) (f : Nat → U32) : (s.putFreqs n f).res = s.res := rfl
@[simp] theorem State.putFreqs_fa0 (s : State) (n : Nat) (f : Nat → U32) : (s.putFreqs n f).fa0 = s.fa0 := rfl
@[simp] theorem State.putFreqs_fa1 (s : State) (n : Nat) (f : Nat → U32) : (s.putFreqs n f).fa1 = s.fa1 := rfl
@[simp] theorem State.putFreqs_fb0 (s : State) (n : Nat) (f : Nat → U32) : (s.putFreqs n f).fb0 = s.fb0 := rfl
@[simp] theorem State.putFreqs_fb1 (s : State) (n : Nat) (f : Nat → U32) : (s.putFreqs n f).fb1 = s.fb1 := rfl
@[simp] theorem State.putFreqs_fr0 (s : State) (n : Nat) (f : Nat → U32) : (s.putFreqs n f).fr0 = s.fr0 := rfl
@[simp] theorem State.putFreqs_fr1 (s : State) (n : Nat) (f : Nat → U32) : (s.putFreqs n f).fr1 = s.fr1 := rfl
@[simp] theorem State.putFreqs_memXA (s : State) (n : Nat) (f : Nat → U32) : (s.putFreqs n f).memXA = s.memXA := rfl
@[simp] theorem State.putFreqs_memXB (s : State) (n : Nat) (f : Nat → U32) : (s.putFreqs n f).memXB = s.memXB := rfl
@[simp] theorem State.putFreqs_memY (s : State) (n : Nat) (f : Nat → U32) : (s.putFreqs n f).memY = s.memY := rfl
@[simp] theorem State.putFreqs_memS (s : State) (n : Nat) (f : Nat → U32) : (s.putFreqs n f).memS = s.memS := rfl
@[simp] theorem State.putFreqs_memW (s : State) (n : Nat) (f : Nat → U32) : (s.putFreqs n f).memW = s.memW := rfl
@[simp] theorem State.putFreqs_memOM (s : State) (n : Nat) (f : Nat → U32) : (s.putFreqs n f).memOM = s.memOM := rfl
@[simp] theorem State.putFreqs_freeCount (s : State) (n : Nat) (f : Nat → U32) : (s.putFreqs n f).freeCount = s.freeCount := rfl
@[simp] theorem State.putFreqs_resets (s : State) (n : Nat) (f : Nat → U32) : (s.putFreqs n f).resets = s.resets := rfl
@[simp] theorem State.putFreqs_port (s : State) (n : Nat) (f : Nat → U32) : (s.putFreqs n f).port = s.port := rfl

/-! ### `produce` -/

@[simp] theorem State.produce_cmd (s : State) (w : Memory Word → Memory Word) : (s.produce w).cmd = s.cmd := by simp [State.produce]
@[simp] theorem State.produce_err (s : State) (w : Memory Word → Memory Word) : (s.produce w).err = s.err := by simp [State.produce]
@[simp] theorem State.produce_sel (s : State) (w : Memory Word → Memory Word) : (s.produce w).sel = (!s.sel) := by simp [State.produce]
@[simp] theorem State.produce_log2n (s : State) (w : Memory Word → Memory Word) : (s.produce w).log2n = s.log2n := by simp [State.produce]
@[simp] theorem State.produce_ylog2n (s : State) (w : Memory Word → Memory Word) : (s.produce w).ylog2n = s.ylog2n := by simp [State.produce]
@[simp] theorem State.produce_srate (s : State) (w : Memory Word → Memory Word) : (s.produce w).srate = s.srate := by simp [State.produce]
@[simp] theorem State.produce_wlen (s : State) (w : Memory Word → Memory Word) : (s.produce w).wlen = s.wlen := by simp [State.produce]
@[simp] theorem State.produce_olen (s : State) (w : Memory Word → Memory Word) : (s.produce w).olen = s.olen := by simp [State.produce]
@[simp] theorem State.produce_arg0 (s : State) (w : Memory Word → Memory Word) : (s.produce w).arg0 = s.arg0 := by simp [State.produce]
@[simp] theorem State.produce_arg1 (s : State) (w : Memory Word → Memory Word) : (s.produce w).arg1 = s.arg1 := by simp [State.produce]
@[simp] theorem State.produce_res (s : State) (w : Memory Word → Memory Word) : (s.produce w).res = s.res := by simp [State.produce]
@[simp] theorem State.produce_fa0 (s : State) (w : Memory Word → Memory Word) : (s.produce w).fa0 = s.fa0 := by simp [State.produce]
@[simp] theorem State.produce_fa1 (s : State) (w : Memory Word → Memory Word) : (s.produce w).fa1 = s.fa1 := by simp [State.produce]
@[simp] theorem State.produce_fb0 (s : State) (w : Memory Word → Memory Word) : (s.produce w).fb0 = s.fb0 := by simp [State.produce]
@[simp] theorem State.produce_fb1 (s : State) (w : Memory Word → Memory Word) : (s.produce w).fb1 = s.fb1 := by simp [State.produce]
@[simp] theorem State.produce_fr0 (s : State) (w : Memory Word → Memory Word) : (s.produce w).fr0 = s.fr0 := by simp [State.produce]
@[simp] theorem State.produce_fr1 (s : State) (w : Memory Word → Memory Word) : (s.produce w).fr1 = s.fr1 := by simp [State.produce]
@[simp] theorem State.produce_memOF (s : State) (w : Memory Word → Memory Word) : (s.produce w).memOF = s.memOF := by simp [State.produce]
@[simp] theorem State.produce_freeCount (s : State) (w : Memory Word → Memory Word) : (s.produce w).freeCount = s.freeCount := by simp [State.produce]
@[simp] theorem State.produce_resets (s : State) (w : Memory Word → Memory Word) : (s.produce w).resets = s.resets := by simp [State.produce]
@[simp] theorem State.produce_port (s : State) (w : Memory Word → Memory Word) : (s.produce w).port = s.port := by simp [State.produce]

/-! ### `setResult`, `offer` -/

@[simp] theorem State.setResult_cmd (s : State) (c : C64) : (s.setResult c).cmd = s.cmd := rfl
@[simp] theorem State.setResult_err (s : State) (c : C64) : (s.setResult c).err = s.err := rfl
@[simp] theorem State.setResult_sel (s : State) (c : C64) : (s.setResult c).sel = s.sel := rfl
@[simp] theorem State.setResult_log2n (s : State) (c : C64) : (s.setResult c).log2n = s.log2n := rfl
@[simp] theorem State.setResult_ylog2n (s : State) (c : C64) : (s.setResult c).ylog2n = s.ylog2n := rfl
@[simp] theorem State.setResult_srate (s : State) (c : C64) : (s.setResult c).srate = s.srate := rfl
@[simp] theorem State.setResult_wlen (s : State) (c : C64) : (s.setResult c).wlen = s.wlen := rfl
@[simp] theorem State.setResult_olen (s : State) (c : C64) : (s.setResult c).olen = s.olen := rfl
@[simp] theorem State.setResult_arg0 (s : State) (c : C64) : (s.setResult c).arg0 = s.arg0 := rfl
@[simp] theorem State.setResult_arg1 (s : State) (c : C64) : (s.setResult c).arg1 = s.arg1 := rfl
@[simp] theorem State.setResult_res (s : State) (c : C64) : (s.setResult c).res = s.res := rfl
@[simp] theorem State.setResult_fa0 (s : State) (c : C64) : (s.setResult c).fa0 = s.fa0 := rfl
@[simp] theorem State.setResult_fa1 (s : State) (c : C64) : (s.setResult c).fa1 = s.fa1 := rfl
@[simp] theorem State.setResult_fb0 (s : State) (c : C64) : (s.setResult c).fb0 = s.fb0 := rfl
@[simp] theorem State.setResult_fb1 (s : State) (c : C64) : (s.setResult c).fb1 = s.fb1 := rfl
@[simp] theorem State.setResult_fr0 (s : State) (c : C64) : (s.setResult c).fr0 = c.re := rfl
@[simp] theorem State.setResult_fr1 (s : State) (c : C64) : (s.setResult c).fr1 = c.im := rfl
@[simp] theorem State.setResult_memXA (s : State) (c : C64) : (s.setResult c).memXA = s.memXA := rfl
@[simp] theorem State.setResult_memXB (s : State) (c : C64) : (s.setResult c).memXB = s.memXB := rfl
@[simp] theorem State.setResult_memY (s : State) (c : C64) : (s.setResult c).memY = s.memY := rfl
@[simp] theorem State.setResult_memS (s : State) (c : C64) : (s.setResult c).memS = s.memS := rfl
@[simp] theorem State.setResult_memW (s : State) (c : C64) : (s.setResult c).memW = s.memW := rfl
@[simp] theorem State.setResult_memOM (s : State) (c : C64) : (s.setResult c).memOM = s.memOM := rfl
@[simp] theorem State.setResult_memOF (s : State) (c : C64) : (s.setResult c).memOF = s.memOF := rfl
@[simp] theorem State.setResult_freeCount (s : State) (c : C64) : (s.setResult c).freeCount = s.freeCount := rfl
@[simp] theorem State.setResult_resets (s : State) (c : C64) : (s.setResult c).resets = s.resets := rfl
@[simp] theorem State.setResult_port (s : State) (c : C64) : (s.setResult c).port = s.port := rfl

@[simp] theorem State.offer_cmd (s : State) (h : HostAction) : (s.offer h).cmd = s.cmd := rfl
@[simp] theorem State.offer_err (s : State) (h : HostAction) : (s.offer h).err = s.err := rfl
@[simp] theorem State.offer_sel (s : State) (h : HostAction) : (s.offer h).sel = s.sel := rfl
@[simp] theorem State.offer_log2n (s : State) (h : HostAction) : (s.offer h).log2n = s.log2n := rfl
@[simp] theorem State.offer_ylog2n (s : State) (h : HostAction) : (s.offer h).ylog2n = s.ylog2n := rfl
@[simp] theorem State.offer_srate (s : State) (h : HostAction) : (s.offer h).srate = s.srate := rfl
@[simp] theorem State.offer_wlen (s : State) (h : HostAction) : (s.offer h).wlen = s.wlen := rfl
@[simp] theorem State.offer_olen (s : State) (h : HostAction) : (s.offer h).olen = s.olen := rfl
@[simp] theorem State.offer_arg0 (s : State) (h : HostAction) : (s.offer h).arg0 = s.arg0 := rfl
@[simp] theorem State.offer_arg1 (s : State) (h : HostAction) : (s.offer h).arg1 = s.arg1 := rfl
@[simp] theorem State.offer_res (s : State) (h : HostAction) : (s.offer h).res = s.res := rfl
@[simp] theorem State.offer_fa0 (s : State) (h : HostAction) : (s.offer h).fa0 = s.fa0 := rfl
@[simp] theorem State.offer_fa1 (s : State) (h : HostAction) : (s.offer h).fa1 = s.fa1 := rfl
@[simp] theorem State.offer_fb0 (s : State) (h : HostAction) : (s.offer h).fb0 = s.fb0 := rfl
@[simp] theorem State.offer_fb1 (s : State) (h : HostAction) : (s.offer h).fb1 = s.fb1 := rfl
@[simp] theorem State.offer_fr0 (s : State) (h : HostAction) : (s.offer h).fr0 = s.fr0 := rfl
@[simp] theorem State.offer_fr1 (s : State) (h : HostAction) : (s.offer h).fr1 = s.fr1 := rfl
@[simp] theorem State.offer_memXA (s : State) (h : HostAction) : (s.offer h).memXA = s.memXA := rfl
@[simp] theorem State.offer_memXB (s : State) (h : HostAction) : (s.offer h).memXB = s.memXB := rfl
@[simp] theorem State.offer_memY (s : State) (h : HostAction) : (s.offer h).memY = s.memY := rfl
@[simp] theorem State.offer_memS (s : State) (h : HostAction) : (s.offer h).memS = s.memS := rfl
@[simp] theorem State.offer_memW (s : State) (h : HostAction) : (s.offer h).memW = s.memW := rfl
@[simp] theorem State.offer_memOM (s : State) (h : HostAction) : (s.offer h).memOM = s.memOM := rfl
@[simp] theorem State.offer_memOF (s : State) (h : HostAction) : (s.offer h).memOF = s.memOF := rfl
@[simp] theorem State.offer_freeCount (s : State) (h : HostAction) : (s.offer h).freeCount = s.freeCount := rfl
@[simp] theorem State.offer_resets (s : State) (h : HostAction) : (s.offer h).resets = s.resets := rfl
@[simp] theorem State.offer_port (s : State) (h : HostAction) : (s.offer h).port = { s.port with pending := h :: s.port.pending } := rfl

end Sys2Proof.Machine
end

