-- ==== Sys2Proof/Laws/Memory.lean ====
section
/-! SUPPORT. What a memory operation does to every index, and that each keeps the canonical form. -/

namespace Sys2Proof.Machine

variable {α σ : Type}

/-! ### Loops -/

@[simp] theorem loop_zero (body : Nat → σ → σ) (x : σ) : loop 0 body x = x := rfl

theorem loop_succ (n : Nat) (body : Nat → σ → σ) (x : σ) : loop (n + 1) body x = body n (loop n body x) := rfl

/-- An invariant of a loop, indexed by the turns done. -/
theorem loop_induction {n : Nat} {body : Nat → σ → σ} {x : σ} (P : Nat → σ → Prop) (h0 : P 0 x)
    (hs : ∀ i, i < n → ∀ y, P i y → P (i + 1) (body i y)) : P n (loop n body x) := by
  induction n with
  | zero => exact h0
  | succ n ih => exact hs n (Nat.lt_succ_self n) _ (ih fun i hi => hs i (Nat.lt_succ_of_lt hi))

/-! ### One write -/

@[simp] theorem lookup_store_same (m : Memory α) (k : Nat) (v : α) : (Memory.store m k v).lookup k = some v := by
  induction m with
  | nil => simp [Memory.store, Memory.lookup]
  | cons e m ih =>
    obtain ⟨a, w⟩ := e
    simp only [Memory.store]
    split
    · simp [Memory.lookup]
    · split
      · simp [Memory.lookup]
      · next h1 h2 => simp [Memory.lookup, Ne.symm h2, ih]

theorem lookup_store_ne (m : Memory α) {k j : Nat} (h : j ≠ k) (v : α) : (Memory.store m k v).lookup j = m.lookup j := by
  induction m with
  | nil => simp [Memory.store, Memory.lookup, Ne.symm h]
  | cons e m ih =>
    obtain ⟨a, w⟩ := e
    simp only [Memory.store]
    split
    · simp [Memory.lookup, Ne.symm h]
    · split
      · next h1 h2 => subst h2; simp [Memory.lookup, Ne.symm h]
      · simp [Memory.lookup, ih]

theorem lookup_store (m : Memory α) (k j : Nat) (v : α) :
    (Memory.store m k v).lookup j = if j = k then some v else m.lookup j := by
  split
  · next h => subst h; simp
  · next h => exact lookup_store_ne m h v

theorem risingFrom_mono {lo lo' size : Nat} (h : lo' ≤ lo) {m : Memory α} (hm : Memory.risingFrom lo size m = true) :
    Memory.risingFrom lo' size m = true := by
  cases m with
  | nil => rfl
  | cons e m =>
    simp only [Memory.risingFrom, Bool.and_eq_true, decide_eq_true_eq] at hm ⊢
    exact ⟨⟨by omega, hm.1.2⟩, hm.2⟩

theorem risingFrom_store {lo size k : Nat} (hk : lo ≤ k) (hs : k < size) (v : α) {m : Memory α}
    (hm : Memory.risingFrom lo size m = true) : Memory.risingFrom lo size (Memory.store m k v) = true := by
  induction m generalizing lo with
  | nil => simp [Memory.store, Memory.risingFrom, hk, hs]
  | cons e m ih =>
    obtain ⟨a, w⟩ := e
    simp only [Memory.risingFrom, Bool.and_eq_true, decide_eq_true_eq] at hm
    obtain ⟨⟨h1, h2⟩, h3⟩ := hm
    simp only [Memory.store]
    split
    · next h => simp [Memory.risingFrom, hk, hs, h3]; omega
    · split
      · next h => subst h; simp [Memory.risingFrom, hk, hs, h3]
      · next h h' => simp [Memory.risingFrom, h1, h2, ih (lo := a + 1) (by omega) h3]

/-- A write inside the memory keeps the canonical form. -/
theorem wf_store {size k : Nat} (hs : k < size) (v : α) {m : Memory α} (hm : m.wf size = true) :
    (Memory.store m k v).wf size = true := risingFrom_store (Nat.zero_le k) hs v hm

theorem lookup_of_lt_risingFrom {lo size k : Nat} (hk : k < lo) {m : Memory α} (hm : Memory.risingFrom lo size m = true) :
    m.lookup k = none := by
  induction m generalizing lo with
  | nil => rfl
  | cons e m ih =>
    obtain ⟨a, w⟩ := e
    simp only [Memory.risingFrom, Bool.and_eq_true, decide_eq_true_eq] at hm
    rw [Memory.lookup, if_neg (by omega), ih (lo := a + 1) (by omega) hm.2]

theorem eq_of_lookup_risingFrom {lo size : Nat} {m m' : Memory α} (h : Memory.risingFrom lo size m = true)
    (h' : Memory.risingFrom lo size m' = true) (e : ∀ k, m.lookup k = m'.lookup k) : m = m' := by
  induction m generalizing lo m' with
  | nil =>
    cases m' with
    | nil => rfl
    | cons x m' => have := e x.1; simp [Memory.lookup] at this
  | cons x m ih =>
    obtain ⟨a, v⟩ := x
    cases m' with
    | nil => have := e a; simp [Memory.lookup] at this
    | cons x' m' =>
      obtain ⟨a', v'⟩ := x'
      simp only [Memory.risingFrom, Bool.and_eq_true, decide_eq_true_eq] at h h'
      have hne : ¬ a < a' := fun hlt => by
        have := e a
        rw [Memory.lookup, if_pos rfl, Memory.lookup, if_neg (by omega),
          lookup_of_lt_risingFrom (lo := a' + 1) (by omega) h'.2] at this
        cases this
      have hne' : ¬ a' < a := fun hlt => by
        have := e a'
        rw [Memory.lookup, if_neg (by omega), lookup_of_lt_risingFrom (lo := a + 1) (by omega) h.2, Memory.lookup,
          if_pos rfl] at this
        cases this
      obtain rfl : a = a' := by omega
      have hv := e a
      simp only [Memory.lookup, if_true, Option.some.injEq] at hv
      have hm : m = m' := by
        refine ih (lo := a + 1) h.2 h'.2 fun k => ?_
        rcases Nat.lt_trichotomy k a with hk | hk | hk
        · rw [lookup_of_lt_risingFrom (lo := a + 1) (by omega) h.2, lookup_of_lt_risingFrom (lo := a + 1) (by omega) h'.2]
        · rw [lookup_of_lt_risingFrom (lo := a + 1) (by omega) h.2, lookup_of_lt_risingFrom (lo := a + 1) (by omega) h'.2]
        · have := e k
          simpa [Memory.lookup, if_neg (show a ≠ k by omega)] using this
      rw [hv, hm]

/-- Canonical memories with equal contents are equal data. -/
theorem eq_of_lookup_eq {size : Nat} {m m' : Memory α} (h : m.wf size = true) (h' : m'.wf size = true)
    (e : ∀ k, m.lookup k = m'.lookup k) : m = m' := eq_of_lookup_risingFrom h h' e

/-- Writing back what an index holds changes nothing (in a canonical memory). -/
theorem store_lookup_self {size k : Nat} {v : α} {m : Memory α} (h : m.wf size = true) (hk : k < size)
    (hv : m.lookup k = some v) : Memory.store m k v = m :=
  eq_of_lookup_eq (wf_store hk v h) h fun j => by
    rw [lookup_store]
    split
    · next hj => rw [hj, hv]
    · rfl

/-! ### A complex entry -/

theorem lookup_storeC (m : Memory Word) (i k : Nat) (c : C64) :
    (m.storeC i c).lookup k = if k = 2 * i then some c.re else if k = 2 * i + 1 then some c.im else m.lookup k := by
  simp only [Memory.storeC, lookup_store]
  split
  · next h => rw [if_neg (by omega)]
  · rfl

theorem wf_storeC {size i : Nat} (hs : 2 * i + 1 < size) (c : C64) {m : Memory Word} (hm : m.wf size = true) :
    (m.storeC i c).wf size = true := wf_store hs _ (wf_store (by omega) _ hm)

/-! ### Many writes -/

/-- Entries `0 .. n-1` written in turn. -/
theorem lookup_loop_store (n : Nat) (f : Nat → α) (m : Memory α) (k : Nat) :
    Memory.lookup (loop n (fun i m => Memory.store m i (f i)) m) k = if k < n then some (f k) else m.lookup k := by
  induction n with
  | zero => simp
  | succ n ih =>
    rw [loop_succ, lookup_store, ih]
    by_cases h : k = n
    · subst h; simp
    · have : k < n + 1 ↔ k < n := by omega
      simp [h, this]

/-- Complex entries written at the indices `g 0 .. g (n-1)`: the entry an index of `g` was given last. -/
theorem lookup_loop_storeC_hit {n : Nat} {g : Nat → Nat} (hg : ∀ i j, i < n → j < n → g i = g j → i = j) (f : Nat → C64)
    (m : Memory Word) {i : Nat} (hi : i < n) :
    Memory.lookup (loop n (fun i m => m.storeC (g i) (f i)) m) (2 * g i) = some (f i).re ∧
      Memory.lookup (loop n (fun i m => m.storeC (g i) (f i)) m) (2 * g i + 1) = some (f i).im := by
  induction n with
  | zero => omega
  | succ n ih =>
    rw [loop_succ, lookup_storeC, lookup_storeC]
    by_cases h : i = n
    · subst h; constructor
      · simp
      · rw [if_neg (by omega)]; simp
    · have hne : g i ≠ g n := fun e => h (hg i n hi (Nat.lt_succ_self n) e)
      have := ih (fun a b ha hb => hg a b (by omega) (by omega)) (by omega)
      rw [if_neg (by omega), if_neg (by omega), if_neg (by omega), if_neg (by omega)]
      exact this

theorem lookup_loop_storeC_miss {n : Nat} {g : Nat → Nat} (f : Nat → C64) (m : Memory Word) {k : Nat}
    (hk : ∀ i, i < n → k / 2 ≠ g i) :
    Memory.lookup (loop n (fun i m => m.storeC (g i) (f i)) m) k = m.lookup k := by
  induction n with
  | zero => rfl
  | succ n ih =>
    rw [loop_succ, lookup_storeC, if_neg, if_neg, ih fun i hi => hk i (by omega)]
    · have := hk n (Nat.lt_succ_self n); omega
    · have := hk n (Nat.lt_succ_self n); omega

/-- Complex entries `0 .. n-1` written in turn. -/
theorem lookup_loop_storeC (n : Nat) (f : Nat → C64) (m : Memory Word) (k : Nat) :
    Memory.lookup (loop n (fun i m => m.storeC i (f i)) m) k =
      if k < 2 * n then some (if k % 2 = 0 then (f (k / 2)).re else (f (k / 2)).im) else m.lookup k := by
  split
  · next h =>
    have hit := lookup_loop_storeC_hit (n := n) (g := fun i => i) (fun i j _ _ e => e) f m (i := k / 2) (by omega)
    rcases Nat.mod_two_eq_zero_or_one k with hp | hp
    · have e : 2 * (k / 2) = k := by omega
      rw [e] at hit
      simpa [hp] using hit.1
    · have e : 2 * (k / 2) + 1 = k := by omega
      rw [e] at hit
      simpa [hp] using hit.2
  · next h => exact lookup_loop_storeC_miss (g := fun i => i) f m (fun i hi => by omega)

theorem wf_loop_store {size n : Nat} (hn : n ≤ size) (f : Nat → α) {m : Memory α} (hm : m.wf size = true) :
    Memory.wf size (loop n (fun i m => Memory.store m i (f i)) m) = true :=
  loop_induction (fun _ m => Memory.wf size m = true) hm fun _ hi _ h => wf_store (by omega) _ h

theorem wf_loop_storeC {size n : Nat} {g : Nat → Nat} (hg : ∀ i, i < n → 2 * g i + 1 < size) (f : Nat → C64)
    {m : Memory Word} (hm : m.wf size = true) :
    Memory.wf size (loop n (fun i m => m.storeC (g i) (f i)) m) = true :=
  loop_induction (fun _ m => Memory.wf size m = true) hm fun i hi _ h => wf_storeC (hg i hi) _ h

end Sys2Proof.Machine
end

