-- ==== Sys2Proof/Laws/Ops.lean ====
section
/-! SUPPORT. What each shared operation over the state does, said once. -/

namespace Sys2Proof.Machine

/-! ### Memories of the state -/

@[simp] theorem mem_setMem (s : State) (n n' : MemName) (m : Memory Word) :
    (s.setMem n m).mem n' = if n' = n then m else s.mem n' := by
  cases n <;> cases n' <;> rfl

@[simp] theorem mem_flip (s : State) (n : MemName) : s.flip.mem n = s.mem n := by cases n <;> rfl

@[simp] theorem mem_raise (e : Err) (s : State) (n : MemName) : (raise e s).mem n = s.mem n := by cases n <;> rfl

@[simp] theorem mem_succeed (s : State) (n : MemName) : (succeed s).mem n = s.mem n := by cases n <;> rfl

@[simp] theorem mem_putFreqs (s : State) (k : Nat) (f : Nat → U32) (n : MemName) : (s.putFreqs k f).mem n = s.mem n := by
  cases n <;> rfl

@[simp] theorem mem_setResult (s : State) (c : C64) (n : MemName) : (s.setResult c).mem n = s.mem n := by cases n <;> rfl

@[simp] theorem word_flip (s : State) (n : MemName) (k : Nat) : s.flip.word n k = s.word n k := by simp [State.word]

@[simp] theorem word_raise (e : Err) (s : State) (n : MemName) (k : Nat) : (raise e s).word n k = s.word n k := by
  simp [State.word]

@[simp] theorem word_succeed (s : State) (n : MemName) (k : Nat) : (succeed s).word n k = s.word n k := by
  simp [State.word]

@[simp] theorem word_putFreqs (s : State) (c : Nat) (f : Nat → U32) (n : MemName) (k : Nat) :
    (s.putFreqs c f).word n k = s.word n k := by simp [State.word]

@[simp] theorem word_setResult (s : State) (c : C64) (n : MemName) (k : Nat) : (s.setResult c).word n k = s.word n k := by
  simp [State.word]

@[simp] theorem freq_flip (s : State) (j : Nat) : s.flip.freq j = s.freq j := rfl

@[simp] theorem freq_raise (e : Err) (s : State) (j : Nat) : (raise e s).freq j = s.freq j := rfl

@[simp] theorem freq_succeed (s : State) (j : Nat) : (succeed s).freq j = s.freq j := rfl

@[simp] theorem freq_setMem (s : State) (n : MemName) (m : Memory Word) (j : Nat) : (s.setMem n m).freq j = s.freq j := by
  simp [State.freq]

@[simp] theorem entry_succeed (s : State) (n : MemName) (i : Nat) : (succeed s).entry n i = s.entry n i := by
  simp [State.entry]

@[simp] theorem entry_flip (s : State) (n : MemName) (i : Nat) : s.flip.entry n i = s.entry n i := by
  simp [State.entry]

@[simp] theorem working_succeed (s : State) : (succeed s).working = s.working := rfl

@[simp] theorem other_succeed (s : State) : (succeed s).other = s.other := rfl

@[simp] theorem working_flip (s : State) : s.flip.working = s.other := by
  cases h : s.sel <;> simp [State.working, State.other, h]

@[simp] theorem other_flip (s : State) : s.flip.other = s.working := by
  cases h : s.sel <;> simp [State.working, State.other, h]

theorem other_ne_working (s : State) : s.other ≠ s.working := by
  cases h : s.sel <;> simp [State.working, State.other, h]

@[simp] theorem x_succeed (s : State) (i : Nat) : (succeed s).x i = s.x i := by simp [State.x]

@[simp] theorem z_succeed (s : State) (i : Nat) : (succeed s).z i = s.z i := by simp [State.z]

/-- One word written. -/
theorem word_setWord (s : State) (n n' : MemName) (k k' : Nat) (v : Word) :
    (s.setWord n k v).word n' k' = if n' = n ∧ k' = k then v else s.word n' k' := by
  by_cases hn : n' = n
  · subst hn
    by_cases hk : k' = k
    · subst hk; simp [State.word, State.setWord]
    · simp [State.word, State.setWord, hk, lookup_store_ne]
  · simp [State.word, State.setWord, hn]

/-- The words of a memory after `putWords`. -/
theorem word_putWords (s : State) (m m' : MemName) (n k : Nat) (f : Nat → F64) :
    (s.putWords m n f).word m' k = if m' = m ∧ k < n then f k else s.word m' k := by
  by_cases hm : m' = m
  · subst hm
    by_cases hk : k < n <;> simp [State.word, State.putWords, lookup_loop_store, hk]
  · simp [State.word, State.putWords, hm]

/-- The words of a memory after `putEntries`. -/
theorem word_putEntries (s : State) (m m' : MemName) (n k : Nat) (f : Nat → C64) :
    (s.putEntries m n f).word m' k =
      if m' = m ∧ k < 2 * n then (if k % 2 = 0 then (f (k / 2)).re else (f (k / 2)).im) else s.word m' k := by
  by_cases hm : m' = m
  · subst hm
    by_cases hk : k < 2 * n <;> simp [State.word, State.putEntries, lookup_loop_storeC, hk]
  · simp [State.word, State.putEntries, hm]

/-- The entries of a memory after `putEntries`. -/
theorem entry_putEntries (s : State) (m m' : MemName) (n i : Nat) (f : Nat → C64) :
    (s.putEntries m n f).entry m' i = if m' = m ∧ i < n then f i else s.entry m' i := by
  simp only [State.entry, word_putEntries]
  have h1 : (2 * i < 2 * n) ↔ i < n := by omega
  have h2 : (2 * i + 1 < 2 * n) ↔ i < n := by omega
  have e1 : 2 * i / 2 = i := by omega
  have e2 : (2 * i + 1) / 2 = i := by omega
  have e3 : (2 * i + 1) % 2 = 1 := by omega
  simp only [h1, h2, e1, e2, e3]
  split <;> simp

/-- The frequencies after `putFreqs`. -/
theorem freq_putFreqs (s : State) (n j : Nat) (f : Nat → U32) :
    (s.putFreqs n f).freq j = if j < n then f j else s.freq j := by
  by_cases h : j < n <;> simp [State.freq, State.putFreqs, lookup_loop_store, h]

@[simp] theorem freq_putEntries (s : State) (m : MemName) (n : Nat) (f : Nat → C64) (j : Nat) :
    (s.putEntries m n f).freq j = s.freq j := by simp [State.freq]

@[simp] theorem freq_putWords (s : State) (m : MemName) (n : Nat) (f : Nat → F64) (j : Nat) :
    (s.putWords m n f).freq j = s.freq j := by simp [State.freq]

@[simp] theorem freq_produce (s : State) (w : Memory Word → Memory Word) (j : Nat) : (s.produce w).freq j = s.freq j := by
  simp [State.freq]

@[simp] theorem working_produce (s : State) (w : Memory Word → Memory Word) : (s.produce w).working = s.other := by
  cases h : s.sel <;> simp [State.working, State.other, h]

@[simp] theorem other_produce (s : State) (w : Memory Word → Memory Word) : (s.produce w).other = s.working := by
  cases h : s.sel <;> simp [State.working, State.other, h]

@[simp] theorem working_putEntries (s : State) (m : MemName) (n : Nat) (f : Nat → C64) :
    (s.putEntries m n f).working = s.working := by simp [State.working]

@[simp] theorem other_putEntries (s : State) (m : MemName) (n : Nat) (f : Nat → C64) :
    (s.putEntries m n f).other = s.other := by simp [State.other]

@[simp] theorem working_putWords (s : State) (m : MemName) (n : Nat) (f : Nat → F64) :
    (s.putWords m n f).working = s.working := by simp [State.working]

/-- The memories after `produce`: only the buffer that was the other one is written. -/
@[simp] theorem mem_produce (s : State) (w : Memory Word → Memory Word) (n : MemName) :
    (s.produce w).mem n = if n = s.other then w (s.mem s.other) else s.mem n := by
  simp [State.produce]

/-- The words after `produce`. -/
theorem word_produce (s : State) (w : Memory Word → Memory Word) (n : MemName) (k : Nat) :
    (s.produce w).word n k =
      if n = s.other then ((w (s.mem s.other)).lookup k).getD (Config.powerOn s.resets n k) else s.word n k := by
  simp only [State.word, mem_produce, State.produce_resets]
  split <;> rfl

@[simp] theorem len_succeed (s : State) : (succeed s).len = s.len := rfl

@[simp] theorem len_produce (s : State) (w : Memory Word → Memory Word) : (s.produce w).len = s.len := by
  simp [State.len]

@[simp] theorem len_putEntries (s : State) (m : MemName) (n : Nat) (f : Nat → C64) : (s.putEntries m n f).len = s.len := by
  simp [State.len]

@[simp] theorem len_putWords (s : State) (m : MemName) (n : Nat) (f : Nat → F64) : (s.putWords m n f).len = s.len := by
  simp [State.len]

/-! ### The end of a command -/

/-- All that a command can do: raise the error of its first failing check, or have its effect with `ERR` cleared. -/
theorem perform_cases {failed : Option Err} {effect : State → State} {s t : State}
    (h : perform failed effect s = .next t) :
    (∃ e, failed = some e ∧ t = raise e s) ∨ (failed = none ∧ t = succeed (effect s)) := by
  cases failed with
  | none => right; simp only [perform, Host.Outcome.next.injEq] at h; exact ⟨rfl, h.symm⟩
  | some e => left; simp only [perform, Host.Outcome.next.injEq] at h; exact ⟨e, rfl, h.symm⟩

@[simp] theorem perform_none (effect : State → State) (s : State) : perform none effect s = .next (succeed (effect s)) := rfl

@[simp] theorem perform_some (e : Err) (effect : State → State) (s : State) :
    perform (some e) effect s = .next (raise e s) := rfl

theorem perform_next (failed : Option Err) (effect : State → State) (s : State) : ∃ t, perform failed effect s = .next t := by
  cases failed <;> exact ⟨_, rfl⟩

@[simp] theorem failIf_eq_none (b : Bool) (e : Err) : failIf b e = none ↔ b = false := by cases b <;> simp [failIf]

@[simp] theorem failIf_eq_some (b : Bool) (e e' : Err) : failIf b e = some e' ↔ b = true ∧ e' = e := by
  cases b <;> simp [failIf, eq_comm]

@[simp] theorem thenCheck_none (x : Option Err) : thenCheck none x = x := rfl

@[simp] theorem thenCheck_some (e : Err) (x : Option Err) : thenCheck (some e) x = some e := rfl

theorem thenCheck_eq_none (x y : Option Err) : thenCheck x y = none ↔ x = none ∧ y = none := by
  cases x <;> simp [thenCheck]

theorem validLen_iff (s : State) : s.validLen = true ↔ 1 ≤ s.log2n.toNat ∧ s.log2n.toNat ≤ 13 := by
  rw [State.validLen, Bool.and_eq_true, decide_eq_true_iff, decide_eq_true_iff]; rfl

theorem checkLength_eq_none (s : State) : checkLength s = none ↔ 1 ≤ s.log2n.toNat ∧ s.log2n.toNat ≤ 13 := by
  simp [checkLength, ← validLen_iff]

theorem checkLength_eq_some (s : State) : checkLength s = some .length ↔ ¬ (1 ≤ s.log2n.toNat ∧ s.log2n.toNat ≤ 13) := by
  simp [checkLength, ← validLen_iff]

/-! ### The host port -/

/-- With nothing pending the block holds its state. -/
theorem step_idle {s : State} (h : s.port.pending = []) : step s = .next s := by
  simp [step, hostStep, h]

/-- A step performs the oldest pending action on the block. -/
theorem step_of_pending {s : State} {h : HostAction} {rest : List HostAction} (hp : s.port.pending = h :: rest) :
    step s = doAction h { s with port := { s.port with pending := rest } } := by
  simp [step, hostStep, hp]

/-- The action offered first is the one the next step performs. -/
@[simp] theorem step_offer (s : State) (h : HostAction) : step (s.offer h) = doAction h s := rfl

/-- Only word 0 is `CMD`. -/
theorem locate_eq_cmd (a : Addr) : locate a = some (.reg .cmd) ↔ a = 0 := by
  constructor
  · intro h
    simp only [locate] at h
    split at h
    · next hlt =>
      rw [Option.map_eq_some_iff] at h
      obtain ⟨r, hr, e⟩ := h
      cases e
      unfold regAt at hr
      split at hr <;> simp_all
      next h0 => exact BitVec.eq_of_toNat_eq h0
    · repeat' (split at h)
      all_goals cases h
  · rintro rfl; rfl

end Sys2Proof.Machine
end

