-- ==== Sys2Proof/Laws/BitReversal.lean ====
section
/-! SUPPORT. The two bit reversals bit by bit: how each takes in one more bit, and the bound and injectivity that the
permutation needs. -/

namespace Sys2Proof.Machine

theorem brevnLoop_zero_value (n r : Nat) : brevnLoop n 0 r = r * 2 ^ n := by
  cases n with
  | zero => simp [brevnLoop]
  | succ n => simp [brevnLoop, Nat.shiftLeft_eq]

/-- The accumulator of the loop only shifts. -/
theorem brevnLoop_acc (n v r : Nat) : brevnLoop n v r = r * 2 ^ n + brevnLoop n v 0 := by
  induction n generalizing v r with
  | zero => simp [brevnLoop]
  | succ n ih =>
    by_cases h : v = 0
    · subst h; simp [brevnLoop_zero_value]
    · simp only [brevnLoop, if_neg h]
      rw [ih (v / 2) (2 * r + v % 2), ih (v / 2) (2 * 0 + v % 2)]
      ring

@[simp] theorem brevn_zero (v : Nat) : brevn v 0 = 0 := rfl

/-- The low bit of the value becomes the high bit of the result. -/
theorem brevn_succ (v n : Nat) : brevn v (n + 1) = v % 2 * 2 ^ n + brevn (v / 2) n := by
  by_cases h : v = 0
  · subst h; simp [brevn, brevnLoop_zero_value]
  · simp only [brevn, brevnLoop, if_neg h]
    rw [brevnLoop_acc]
    simp

/-- "The result is below 2^s" (R161). -/
theorem brevn_lt (v n : Nat) : brevn v n < 2 ^ n := by
  induction n generalizing v with
  | zero => simp
  | succ n ih =>
    rw [brevn_succ, pow_succ]
    have h1 := ih (v / 2)
    have h2 : v % 2 * 2 ^ n ≤ 1 * 2 ^ n := Nat.mul_le_mul_right _ (by omega)
    omega

/-- Bit reversal of `n` bits is injective on the values of `n` bits. -/
theorem brevn_inj {n u v : Nat} (hu : u < 2 ^ n) (hv : v < 2 ^ n) (h : brevn u n = brevn v n) : u = v := by
  induction n generalizing u v with
  | zero => simp at hu hv; omega
  | succ n ih =>
    rw [brevn_succ, brevn_succ] at h
    rw [pow_succ] at hu hv
    have a := brevn_lt (u / 2) n
    have b := brevn_lt (v / 2) n
    have hb : u % 2 = v % 2 := by
      rcases Nat.mod_two_eq_zero_or_one u with e | e <;> rcases Nat.mod_two_eq_zero_or_one v with f | f <;>
        rw [e, f] at h <;> omega
    rw [hb] at h
    have := ih (u := u / 2) (v := v / 2) (by omega) (by omega) (by omega)
    omega

/-- The accumulator of `brev`'s loop shifts by one for every bit of the value taken in. -/
theorem brevLoop_step {n v : Nat} (h : v ≠ 0) (r : Nat) : brevLoop (n + 1) v r = brevLoop n (v / 2) (2 * r + v % 2) := by
  simp [brevLoop, h]

@[simp] theorem brevLoop_of_zero (n r : Nat) : brevLoop n 0 r = r := by cases n <;> simp [brevLoop]

end Sys2Proof.Machine
end

