-- ==== Sys2Proof/Laws/Float.lean ====
section
/-! SUPPORT. The fields of a pattern under `fneg` and `fabs`, and the patterns the rounding yields. -/

namespace Sys2Proof.Machine

theorem toNat_lt (a : F64) : a.toNat < 2 ^ 64 := a.isLt

theorem signBit_eq (a : F64) : signBit a = decide (2 ^ 63 ≤ a.toNat) := by
  rw [signBit, BitVec.getLsbD, Nat.testBit_eq_decide_div_mod_eq]
  have := a.isLt
  congr 1
  apply propext
  constructor <;> intro h <;> omega

theorem toNat_fneg (a : F64) : (fneg a).toNat = if signBit a then a.toNat - 2 ^ 63 else a.toNat + 2 ^ 63 := by
  have h : fneg a = if signBit a then a - 0x8000000000000000#64 else a + 0x8000000000000000#64 := by
    have : fneg a = a + 0x8000000000000000#64 := by
      unfold fneg
      apply BitVec.eq_of_getLsbD_eq
      intro i hi
      rw [BitVec.getLsbD_xor]
      by_cases h63 : i = 63
      · subst h63
        rw [BitVec.getLsbD, BitVec.getLsbD, BitVec.getLsbD, BitVec.toNat_add, Nat.testBit_eq_decide_div_mod_eq,
          Nat.testBit_eq_decide_div_mod_eq, Nat.testBit_eq_decide_div_mod_eq]
        have := a.isLt
        simp only [BitVec.toNat_ofNat]
        rcases Nat.lt_or_ge a.toNat (2 ^ 63) with hlt | hge
        · have e1 : a.toNat / 2 ^ 63 % 2 = 0 := by omega
          have e2 : (a.toNat + 9223372036854775808 % 2 ^ 64) % 2 ^ 64 / 2 ^ 63 % 2 = 1 := by omega
          rw [e1, e2]; rfl
        · have e1 : a.toNat / 2 ^ 63 % 2 = 1 := by omega
          have e2 : (a.toNat + 9223372036854775808 % 2 ^ 64) % 2 ^ 64 / 2 ^ 63 % 2 = 0 := by omega
          rw [e1, e2]; rfl
      · have hlt : i < 63 := by omega
        have hz : BitVec.getLsbD (0x8000000000000000 : F64) i = false := by
          have : ∀ j : Fin 63, (0x8000000000000000#64).getLsbD j.val = false := by decide
          exact this ⟨i, hlt⟩
        rw [hz, Bool.xor_false, BitVec.getLsbD, BitVec.getLsbD, BitVec.toNat_add]
        have e : (a.toNat + (0x8000000000000000#64).toNat) % 2 ^ 64 % 2 ^ 63 = a.toNat % 2 ^ 63 := by
          have : (0x8000000000000000#64).toNat = 2 ^ 63 := rfl
          rw [this]; omega
        have tb : ∀ x : Nat, x.testBit i = (x % 2 ^ 63).testBit i := fun x => by
          rw [Nat.testBit_mod_two_pow, decide_eq_true hlt, Bool.true_and]
        have t1 := tb a.toNat
        have t2 := tb ((a.toNat + (0x8000000000000000#64).toNat) % 2 ^ 64)
        rw [t1, t2, e]
    split
    · rw [this]; bv_omega
    · exact this
  have hl := a.isLt
  rw [h]
  by_cases hs : signBit a = true
  · rw [if_pos hs, if_pos hs]
    rw [signBit_eq, decide_eq_true_eq] at hs
    rw [BitVec.toNat_sub]
    have : (0x8000000000000000#64).toNat = 2 ^ 63 := rfl
    rw [this]; omega
  · rw [if_neg hs, if_neg hs]
    rw [signBit_eq, decide_eq_true_eq] at hs
    rw [BitVec.toNat_add]
    have : (0x8000000000000000#64).toNat = 2 ^ 63 := rfl
    rw [this]; omega

@[simp] theorem signBit_fneg (a : F64) : signBit (fneg a) = !signBit a := by
  have hl := a.isLt
  rw [signBit_eq (fneg a), toNat_fneg]
  by_cases h : signBit a = true
  · rw [if_pos h, h]; rw [signBit_eq, decide_eq_true_eq] at h
    simp only [Bool.not_true, decide_eq_false_iff_not]; omega
  · rw [if_neg h]
    rw [Bool.not_eq_true] at h
    rw [h]; simp

@[simp] theorem fracField_fneg (a : F64) : fracField (fneg a) = fracField a := by
  have hl := a.isLt
  rw [fracField, fracField, toNat_fneg]
  split
  · next h => rw [signBit_eq, decide_eq_true_eq] at h; omega
  · omega

@[simp] theorem expField_fneg (a : F64) : expField (fneg a) = expField a := by
  have hl := a.isLt
  rw [expField, expField, toNat_fneg]
  split
  · next h => rw [signBit_eq, decide_eq_true_eq] at h; omega
  · next h => rw [signBit_eq, decide_eq_true_eq] at h; omega

@[simp] theorem isNaN_fneg (a : F64) : isNaN (fneg a) = isNaN a := by simp [isNaN]

@[simp] theorem isInf_fneg (a : F64) : isInf (fneg a) = isInf a := by simp [isInf]

@[simp] theorem isFinite_fneg (a : F64) : isFinite (fneg a) = isFinite a := by simp [isFinite]

@[simp] theorem isZero_fneg (a : F64) : isZero (fneg a) = isZero a := by simp [isZero]

@[simp] theorem magnitude_fneg (a : F64) : magnitude (fneg a) = magnitude a := by simp [magnitude]

@[simp] theorem fneg_fneg (a : F64) : fneg (fneg a) = a := by
  simp [fneg]

/-- A value is its three fields. -/
theorem toNat_fields (a : F64) : a.toNat = (if signBit a then 2 ^ 63 else 0) + (expField a * 2 ^ 52 + fracField a) := by
  have hl := a.isLt
  by_cases h : signBit a = true
  · rw [if_pos h, expField, fracField]; rw [signBit_eq, decide_eq_true_eq] at h; omega
  · rw [if_neg h, expField, fracField]; rw [signBit_eq, decide_eq_true_eq] at h; omega

theorem fields_ext {a b : F64} (hs : signBit a = signBit b) (he : expField a = expField b)
    (hf : fracField a = fracField b) : a = b :=
  BitVec.eq_of_toNat_eq (by rw [toNat_fields a, toNat_fields b, hs, he, hf])

theorem toNat_fabs (a : F64) : (fabs a).toNat = a.toNat % 2 ^ 63 := by
  have h : (fabs a).toNat = a.toNat &&& (2 ^ 63 - 1) := by
    rw [fabs, BitVec.toNat_and]; rfl
  rw [h, Nat.and_two_pow_sub_one_eq_mod]

@[simp] theorem signBit_fabs (a : F64) : signBit (fabs a) = false := by
  rw [signBit_eq, toNat_fabs, decide_eq_false_iff_not]; omega

@[simp] theorem expField_fabs (a : F64) : expField (fabs a) = expField a := by
  rw [expField, expField, toNat_fabs]; omega

@[simp] theorem fracField_fabs (a : F64) : fracField (fabs a) = fracField a := by
  rw [fracField, fracField, toNat_fabs]; omega

@[simp] theorem fabs_fneg (a : F64) : fabs (fneg a) = fabs a := by
  apply fields_ext <;> simp

@[simp] theorem fabs_fabs (a : F64) : fabs (fabs a) = fabs a := by
  apply fields_ext <;> simp

theorem expField_lt (a : F64) : expField a < 2048 := Nat.mod_lt _ (by decide)

theorem fracField_lt (a : F64) : fracField a < 2 ^ 52 := Nat.mod_lt _ (by decide)

/-- The fields of a sign and a magnitude pattern put together. -/
theorem toNat_withSign (neg : Bool) {p : Nat} (hp : p ≤ infPattern) :
    (withSign neg p).toNat = (if neg then 2 ^ 63 else 0) + p := by
  have : p ≤ 2047 * 2 ^ 52 := hp
  rw [withSign, BitVec.toNat_ofNat]
  cases neg
  · simp only [Bool.false_eq_true, if_false]; omega
  · simp only [if_true]; omega

theorem signBit_withSign (neg : Bool) {p : Nat} (hp : p ≤ infPattern) : signBit (withSign neg p) = neg := by
  have h : p ≤ 2047 * 2 ^ 52 := hp
  rw [signBit_eq, toNat_withSign neg hp]
  cases neg
  · simp only [Bool.false_eq_true, if_false, decide_eq_false_iff_not]; omega
  · simp

theorem gridPattern_le (t q : Nat) : gridPattern t q ≤ infPattern := Nat.min_le_right _ _

theorem roundUnits_le (n d : Nat) : roundUnits n d ≤ infPattern := gridPattern_le _ _

theorem roundSqrt_le (m : Nat) : roundSqrt m ≤ infPattern := gridPattern_le _ _

@[simp] theorem finitePattern_toNat (v : FiniteF64) :
    (finitePattern v).toNat = (if v.sign then 2 ^ 63 else 0) + (v.exponent.val * 2 ^ 52 + v.fraction.toNat) := by
  have he := v.exponent.isLt
  have hf := v.fraction.isLt
  rw [finitePattern, BitVec.toNat_append, BitVec.toNat_append, Nat.shiftLeft_eq, Nat.shiftLeft_eq,
    ← Nat.shiftLeft_eq, ← Nat.shiftLeft_add_eq_or_of_lt hf, ← Nat.shiftLeft_eq,
    ← Nat.shiftLeft_add_eq_or_of_lt (BitVec.isLt _)]
  simp only [BitVec.toNat_ofNat, Nat.shiftLeft_eq]
  have e : v.exponent.val % 2 ^ 11 = v.exponent.val := Nat.mod_eq_of_lt (by omega)
  rw [e]
  cases v.sign
  · simp
  · simp only [if_true, BitVec.ofBool_true]
    have : BitVec.toNat (1 : BitVec 1) = 1 := rfl
    rw [this]; ring

/-- The kernel's results are finite (R140). -/
@[simp] theorem isFinite_finitePattern (v : FiniteF64) : isFinite (finitePattern v) = true := by
  have he := v.exponent.isLt
  have hf := v.fraction.isLt
  rw [isFinite, expField, finitePattern_toNat]
  simp only [bne_iff_ne, ne_eq]
  split <;> omega

end Sys2Proof.Machine
end

