-- ==== Sys2Proof/Laws/Effects.lean ====
section
/-! SUPPORT. What the effects of the commands do to the memories and the other fields, said once: the entry a butterfly stage
leaves at every index, what each effect keeps, and that no effect reads `STATUS.ERR`. -/

namespace Sys2Proof.Machine

/-! ### The entries a stage writes -/

/-- The part of a complex entry that word `k` of a memory holds (R62). -/
def partOf (k : Nat) (c : C64) : Word := if k % 2 = 0 then c.re else c.im

theorem lookup_storeC_eq (m : Memory Word) (i : Nat) (c : C64) (k : Nat) :
    (m.storeC i c).lookup k = if k / 2 = i then some (partOf k c) else m.lookup k := by
  rw [lookup_storeC, partOf]
  by_cases h : k / 2 = i
  · rcases Nat.mod_two_eq_zero_or_one k with hp | hp
    · rw [if_pos (by omega), if_pos h, if_pos hp]
    · rw [if_neg (by omega), if_pos (by omega), if_pos h, if_neg (by omega)]
  · rw [if_neg (by omega), if_neg (by omega), if_neg h]

/-- The pair butterflies of `c` blocks of two, at every word (R204). -/
theorem lookup_pairs (s : State) (c : Nat) (m : Memory Word) (k : Nat) :
    (loop c (fun i z => pairButterfly s (i * 2) z) m).lookup k =
      if k / 2 < 2 * c then
        some (partOf k (if k / 2 % 2 = 0 then cadd (s.x (k / 2)) (s.x (k / 2 + 1)) else csub (s.x (k / 2 - 1)) (s.x (k / 2))))
      else m.lookup k := by
  induction c with
  | zero => simp
  | succ c ih =>
    rw [loop_succ, pairButterfly, lookup_storeC_eq, lookup_storeC_eq, ih]
    by_cases h1 : k / 2 = c * 2 + 1
    · have e : (c * 2 + 1) % 2 = 1 := by omega
      rw [h1, if_pos rfl, if_pos (by omega), e]
      simp
    · rw [if_neg h1]
      by_cases h2 : k / 2 = c * 2
      · have e : c * 2 % 2 = 0 := by omega
        rw [h2, if_pos rfl, if_pos (by omega), e]
        simp
      · rw [if_neg h2]
        have : k / 2 < 2 * (c + 1) ↔ k / 2 < 2 * c := by omega
        simp only [this]

/-- The butterflies `0 .. n-1` of the block at `b`, at every word (R204). -/
theorem lookup_butterflies (s : State) (half blocks b n : Nat) (hn : n ≤ half) (m : Memory Word) (k : Nat) :
    (loop n (fun q z => twiddleButterfly s half blocks b q z) m).lookup k =
      if b ≤ k / 2 ∧ k / 2 < b + n then
        some (partOf k (cadd (s.x (k / 2)) (cmul (s.x (k / 2 + half)) (twiddle s.log2n.toNat (blocks * (k / 2 - b))))))
      else if b + half ≤ k / 2 ∧ k / 2 < b + half + n then
        some (partOf k (csub (s.x (k / 2 - half)) (cmul (s.x (k / 2)) (twiddle s.log2n.toNat (blocks * (k / 2 - half - b))))))
      else m.lookup k := by
  induction n with
  | zero => rw [loop_zero, if_neg (by omega), if_neg (by omega)]
  | succ n ih =>
    rw [loop_succ, twiddleButterfly, lookup_storeC_eq, lookup_storeC_eq, ih (by omega)]
    by_cases h1 : k / 2 = b + n + half
    · rw [h1, if_pos rfl, if_neg (by omega), if_pos (by omega)]
      have e1 : b + n + half - half = b + n := by omega
      have e2 : b + n - b = n := by omega
      rw [e1, e2]
    · rw [if_neg h1]
      by_cases h2 : k / 2 = b + n
      · rw [h2, if_pos rfl, if_pos (by omega)]
        have e2 : b + n - b = n := by omega
        rw [e2]
      · rw [if_neg h2]
        have i1 : (b ≤ k / 2 ∧ k / 2 < b + (n + 1)) ↔ (b ≤ k / 2 ∧ k / 2 < b + n) := by omega
        have i2 : (b + half ≤ k / 2 ∧ k / 2 < b + half + (n + 1)) ↔ (b + half ≤ k / 2 ∧ k / 2 < b + half + n) := by omega
        simp only [i1, i2]

/-- The entry that a stage of size `2 * half` leaves at index `e` (R204). -/
def butterflyEntry (s : State) (half blocks e : Nat) : C64 :=
  let b := e / (2 * half) * (2 * half)
  if e - b < half then cadd (s.x e) (cmul (s.x (e + half)) (twiddle s.log2n.toNat (blocks * (e - b))))
  else csub (s.x (e - half)) (cmul (s.x e) (twiddle s.log2n.toNat (blocks * (e - half - b))))

/-- The butterflies of `c` blocks, at every word (R204). -/
theorem lookup_blocks (s : State) (half blocks c : Nat) (hh : 0 < half) (m : Memory Word) (k : Nat) :
    (loop c (fun i z => loop half (fun q z => twiddleButterfly s half blocks (i * (2 * half)) q z) z) m).lookup k =
      if k / 2 < c * (2 * half) then some (partOf k (butterflyEntry s half blocks (k / 2))) else m.lookup k := by
  induction c with
  | zero => simp
  | succ c ih =>
    rw [loop_succ, lookup_butterflies s half blocks _ half (Nat.le_refl _), ih]
    have hs : (c + 1) * (2 * half) = c * (2 * half) + 2 * half := by ring
    by_cases h : k / 2 < c * (2 * half)
    · rw [if_neg (by omega), if_neg (by omega), if_pos h, if_pos (by omega)]
    · by_cases h' : k / 2 < (c + 1) * (2 * half)
      · have hd : k / 2 / (2 * half) = c := by
          apply Nat.div_eq_of_lt_le <;> omega
        rw [if_pos h', butterflyEntry, hd]
        by_cases hl : k / 2 - c * (2 * half) < half
        · rw [if_pos (by omega), if_pos hl]
        · rw [if_neg (by omega), if_pos (by omega), if_neg hl]
      · rw [if_neg (by omega), if_neg (by omega), if_neg h, if_neg h']

/-! ### What an effect keeps -/

/-- The two lengths and the port survive a whole transform. -/
theorem fftEffect_keeps {α : Type} (get : State → α) (hp : ∀ s w, get (s.produce w) = get s) (s : State) :
    get (fftEffect s) = get s := by
  unfold fftEffect
  refine loop_induction (fun _ (t : State) => get t = get s) ?_ ?_
  · exact hp _ _
  · intro i _ t h; rw [← h]; exact hp _ _

@[simp] theorem fftEffect_log2n (s : State) : (fftEffect s).log2n = s.log2n := fftEffect_keeps _ (by simp) s

@[simp] theorem fftEffect_ylog2n (s : State) : (fftEffect s).ylog2n = s.ylog2n := fftEffect_keeps _ (by simp) s

@[simp] theorem fftEffect_wlen (s : State) : (fftEffect s).wlen = s.wlen := fftEffect_keeps _ (by simp) s

@[simp] theorem fftEffect_srate (s : State) : (fftEffect s).srate = s.srate := fftEffect_keeps _ (by simp) s

/-- A transform leaves every memory but the two working buffers as it was. -/
theorem fftEffect_mem (s : State) {n : MemName} (h1 : n ≠ .xa) (h2 : n ≠ .xb) : (fftEffect s).mem n = s.mem n := by
  refine fftEffect_keeps (fun t => t.mem n) ?_ s
  intro t w
  have : n ≠ t.other := by unfold State.other; split <;> assumption
  simp [this]

/-! ### No effect reads `STATUS.ERR` (R25: no command reads it) -/

theorem setMem_succeed (s : State) (n : MemName) (m : Memory Word) : (succeed s).setMem n m = succeed (s.setMem n m) := by
  cases n <;> rfl

theorem word_succeed_fun (s : State) : (succeed s).word = s.word := by funext n k; simp

theorem x_succeed_fun (s : State) : (succeed s).x = s.x := by funext i; simp

theorem yEntry_succeed_fun (s : State) : (succeed s).yEntry = s.yEntry := by funext i; simp [State.yEntry]

theorem produce_succeed (s : State) (w : Memory Word → Memory Word) : (succeed s).produce w = succeed (s.produce w) := by
  simp only [State.produce, other_succeed, mem_succeed, setMem_succeed]; rfl

theorem putEntries_succeed (s : State) (m : MemName) (n : Nat) (f : Nat → C64) :
    (succeed s).putEntries m n f = succeed (s.putEntries m n f) := by
  simp only [State.putEntries, mem_succeed, setMem_succeed]

theorem putWords_succeed (s : State) (m : MemName) (n : Nat) (f : Nat → F64) :
    (succeed s).putWords m n f = succeed (s.putWords m n f) := by
  simp only [State.putWords, mem_succeed, setMem_succeed]

@[simp] theorem succeed_succeed (s : State) : succeed (succeed s) = succeed s := rfl

theorem reorderEffect_succeed (s : State) : reorderEffect (succeed s) = succeed (reorderEffect s) := by
  simp only [reorderEffect, produce_succeed, len_succeed, x_succeed_fun]; rfl

theorem stageEffect_succeed (a : Nat) (s : State) : stageEffect a (succeed s) = succeed (stageEffect a s) := by
  simp only [stageEffect, produce_succeed, len_succeed, pairButterfly, twiddleButterfly, x_succeed_fun]; rfl

theorem fftEffect_succeed (s : State) : fftEffect (succeed s) = succeed (fftEffect s) := by
  simp only [fftEffect, reorderEffect_succeed]
  show loop s.log2n.toNat _ _ = _
  induction s.log2n.toNat with
  | zero => rfl
  | succ n ih => simp only [loop_succ, ih, stageEffect_succeed]

theorem revcopyEffect_succeed (s : State) : revcopyEffect (succeed s) = succeed (revcopyEffect s) := by
  simp only [revcopyEffect, produce_succeed, len_succeed, x_succeed_fun]

theorem scaleEffect_succeed (s : State) : scaleEffect (succeed s) = succeed (scaleEffect s) := by
  simp only [scaleEffect, putEntries_succeed, len_succeed, x_succeed_fun, working_succeed]

theorem cmulvEffect_succeed (s : State) : cmulvEffect (succeed s) = succeed (cmulvEffect s) := by
  simp only [cmulvEffect, putEntries_succeed, len_succeed, x_succeed_fun, yEntry_succeed_fun, working_succeed]

theorem xchgEffect_succeed (s : State) : xchgEffect (succeed s) = succeed (xchgEffect s) := by
  simp only [xchgEffect, putEntries_succeed, len_succeed, x_succeed_fun, yEntry_succeed_fun, working_succeed]

theorem ifftEffect_succeed (s : State) : ifftEffect (succeed s) = succeed (ifftEffect s) := by
  simp only [ifftEffect, scaleEffect_succeed, fftEffect_succeed, revcopyEffect_succeed]

theorem liftEffect_succeed (s : State) : liftEffect (succeed s) = succeed (liftEffect s) := by
  simp only [liftEffect, putEntries_succeed, len_succeed, word_succeed_fun, working_succeed]

theorem wapplyEffect_succeed (s : State) : wapplyEffect (succeed s) = succeed (wapplyEffect s) := by
  simp only [wapplyEffect, putWords_succeed, len_succeed, word_succeed_fun]

theorem magEffect_succeed (s : State) : magEffect (succeed s) = succeed (magEffect s) := by
  simp only [magEffect, putWords_succeed, len_succeed, x_succeed_fun, frequency]; rfl

end Sys2Proof.Machine
end

