-- ==== Sys2Proof/Laws/PerInstr.lean ====
section
/-! SUPPORT. One statement about every instruction as syntax: its encoding lies on its row of spec/opcode_table.json. -/

namespace Sys2Proof.Laws.TableRow

/-- The `match` and `mask` columns of an instruction's row of spec/opcode_table.json (30_encoding.md R93). -/
def row : Instr → BitVec 32 × BitVec 32
  | .nop => (0x00000000, 0xFFFFFFFF)
  | .sin => (0x00000001, 0xFFFFFFFF)
  | .cos => (0x00000002, 0xFFFFFFFF)
  | .cmul => (0x00000003, 0xFFFFFFFF)
  | .brev => (0x00000008, 0xFFFFFFFF)
  | .brevn => (0x00000009, 0xFFFFFFFF)
  | .reorder => (0x0000000A, 0xFFFFFFFF)
  | .twld => (0x00000010, 0xFFFFFFFF)
  | .stage _ => (0x00000018, 0xFFFF00FF)
  | .fft => (0x00000019, 0xFFFFFFFF)
  | .revcopy => (0x0000001A, 0xFFFFFFFF)
  | .scale => (0x0000001B, 0xFFFFFFFF)
  | .ifft => (0x0000001C, 0xFFFFFFFF)
  | .cmulv => (0x0000001D, 0xFFFFFFFF)
  | .xchg => (0x0000001E, 0xFFFFFFFF)
  | .conv => (0x0000001F, 0xFFFFFFFF)
  | .wgen _ => (0x00000020, 0xFFFF00FF)
  | .wapply => (0x00000021, 0xFFFFFFFF)
  | .resolve => (0x00000022, 0xFFFFFFFF)
  | .asblock => (0x00000023, 0xFFFFFFFF)
  | .lift => (0x00000028, 0xFFFFFFFF)
  | .mag => (0x00000029, 0xFFFFFFFF)
  | .analyze _ => (0x0000002A, 0xFFFF00FF)

/-- "a word c is command M when c & mask == match" (R93): the encoding of an instruction is its command's. -/
def Statement (i : Instr) : Prop := encode i &&& (row i).2 = (row i).1

theorem nop : Statement .nop := by unfold Statement; decide

theorem sin : Statement .sin := by unfold Statement; decide

theorem cos : Statement .cos := by unfold Statement; decide

theorem cmul : Statement .cmul := by unfold Statement; decide

theorem brev : Statement .brev := by unfold Statement; decide

theorem brevn : Statement .brevn := by unfold Statement; decide

theorem reorder : Statement .reorder := by unfold Statement; decide

theorem twld : Statement .twld := by unfold Statement; decide

theorem stage (a : BitVec 8) : Statement (.stage a) := by
  have h : ∀ b : BitVec 8, commandWord 0x18 b &&& 0xFFFF00FF = 0x00000018 := by decide
  exact h a

theorem fft : Statement .fft := by unfold Statement; decide

theorem revcopy : Statement .revcopy := by unfold Statement; decide

theorem scale : Statement .scale := by unfold Statement; decide

theorem ifft : Statement .ifft := by unfold Statement; decide

theorem cmulv : Statement .cmulv := by unfold Statement; decide

theorem xchg : Statement .xchg := by unfold Statement; decide

theorem conv : Statement .conv := by unfold Statement; decide

theorem wgen (a : BitVec 8) : Statement (.wgen a) := by
  have h : ∀ b : BitVec 8, commandWord 0x20 b &&& 0xFFFF00FF = 0x00000020 := by decide
  exact h a

theorem wapply : Statement .wapply := by unfold Statement; decide

theorem resolve : Statement .resolve := by unfold Statement; decide

theorem asblock : Statement .asblock := by unfold Statement; decide

theorem lift : Statement .lift := by unfold Statement; decide

theorem mag : Statement .mag := by unfold Statement; decide

theorem analyze (a : BitVec 8) : Statement (.analyze a) := by
  have h : ∀ b : BitVec 8, commandWord 0x2A b &&& 0xFFFF00FF = 0x0000002A := by decide
  exact h a

end Sys2Proof.Laws.TableRow
end

