-- ==== Sys2Proof/Tests/Slice0.lean ====
section
/-! SUPPORT. Tests of the model on fixed values, each taken from the spec, and a witness for the hypotheses of every claim.
Expected values come from spec/95_test_vectors.md (the `V-` name stands beside each) and from the encodings of R91 and R93. -/

namespace Sys2Proof.Tests

-- The tests are many small kernel evaluations; elaborated one after the other they need no threads.
set_option Elab.async false

open Sys2Proof.Machine Sys2Proof.Claims

/-! ### Helpers -/

/-- The state that an outcome leads to, if any. -/
def after : Host.Outcome State Fault Refusal → Option State
  | .next t => some t
  | .fault _ => none
  | .refused _ => none

/-- The state after the host writes the word `c` to `CMD`: one step. -/
def cmd (c : BitVec 32) (s : State) : Option State := after (step (s.offer (commandAction c)))

/-- The state after one host write. -/
def wr (a : Addr) (v : Word) (s : State) : Option State := after (step (s.offer (.write a v)))

/-- The word one host read returns. -/
def rd (a : Addr) (s : State) : Option Word :=
  (after (step (s.offer (.read a)))).bind (fun t => t.port.returned.getLast?)

/-- The words of a list at the indices from `lo` on. -/
def wordsFrom (lo : Nat) : List Word → Memory Word
  | [] => []
  | v :: vs => (lo, v) :: wordsFrom (lo + 1) vs

/-- The reset state with both lengths set. -/
def atLen (k : BitVec 4) : State := { State.reset with log2n := k, ylog2n := k }

/-- `SEL = 0` and these words in `X`, so in `XA`. -/
def withX (ws : List Word) (s : State) : State := { s with memXA := wordsFrom 0 ws }

/-- These words in `Y`. -/
def withY (ws : List Word) (s : State) : State := { s with memY := wordsFrom 0 ws }

/-- These words in `S`. -/
def withS (ws : List Word) (s : State) : State := { s with memS := wordsFrom 0 ws }

/-- The first `n` words of `X`. -/
def xWords (n : Nat) (s : State) : List Word := (List.range n).map (s.word s.working)

/-- The `STATUS` word after a command. -/
def statusAfter (c : BitVec 32) (s : State) : Option (BitVec 32) := (cmd c s).map statusWord

/-! ### Well-formedness -/

theorem test_reserved_window_kind_refused : (Instr.wgen 5).illFormed = some .windowKind := by decide

theorem test_analyze_flag_two_refused : (Instr.analyze 2).illFormed = some .analyzeFlag := by decide

/-! ### Decoding: words written out from R91 and R93 (`op` in bits 7:0, `a` in bits 15:8, zeros above) -/

theorem test_decode_nop : decode 0b00000000000000000000000000000000 = .ok .nop := by rfl
theorem test_decode_sin : decode 0b00000000000000000000000000000001 = .ok .sin := by rfl
theorem test_decode_cos : decode 0b00000000000000000000000000000010 = .ok .cos := by rfl
theorem test_decode_cmul : decode 0b00000000000000000000000000000011 = .ok .cmul := by rfl
theorem test_decode_brev : decode 0b00000000000000000000000000001000 = .ok .brev := by rfl
theorem test_decode_brevn : decode 0b00000000000000000000000000001001 = .ok .brevn := by rfl
theorem test_decode_reorder : decode 0b00000000000000000000000000001010 = .ok .reorder := by rfl
theorem test_decode_twld : decode 0b00000000000000000000000000010000 = .ok .twld := by rfl
theorem test_decode_stage : decode 0b00000000000000000000001100011000 = .ok (.stage 3) := by rfl
theorem test_decode_fft : decode 0b00000000000000000000000000011001 = .ok .fft := by rfl
theorem test_decode_revcopy : decode 0b00000000000000000000000000011010 = .ok .revcopy := by rfl
theorem test_decode_scale : decode 0b00000000000000000000000000011011 = .ok .scale := by rfl
theorem test_decode_ifft : decode 0b00000000000000000000000000011100 = .ok .ifft := by rfl
theorem test_decode_cmulv : decode 0b00000000000000000000000000011101 = .ok .cmulv := by rfl
theorem test_decode_xchg : decode 0b00000000000000000000000000011110 = .ok .xchg := by rfl
theorem test_decode_conv : decode 0b00000000000000000000000000011111 = .ok .conv := by rfl
theorem test_decode_wgen : decode 0b00000000000000000000010000100000 = .ok (.wgen 4) := by rfl
theorem test_decode_wapply : decode 0b00000000000000000000000000100001 = .ok .wapply := by rfl
theorem test_decode_resolve : decode 0b00000000000000000000000000100010 = .ok .resolve := by rfl
theorem test_decode_asblock : decode 0b00000000000000000000000000100011 = .ok .asblock := by rfl
theorem test_decode_lift : decode 0b00000000000000000000000000101000 = .ok .lift := by rfl
theorem test_decode_mag : decode 0b00000000000000000000000000101001 = .ok .mag := by rfl
theorem test_decode_analyze : decode 0b00000000000000000000000100101010 = .ok (.analyze 1) := by rfl

theorem test_reject_reserved_bits : decode 0x00010019 = .error .reservedBits := by rfl
theorem test_reject_operand_of_fft : decode 0x00000119 = .error .operandNotZero := by rfl
theorem test_reject_unused_codes :
    decode 0x0000002B = .error .unusedCode ∧ decode 0x000000FF = .error .unusedCode ∧
    decode 0x00000004 = .error .unusedCode := ⟨rfl, rfl, rfl⟩
theorem test_reject_window_kind : decode 0x00000520 = .error .windowKind := by rfl
theorem test_reject_analyze_flag : decode 0x0000022A = .error .analyzeFlag := by rfl

theorem test_decode_table_word : decodeTableWord 16 0x0318 = some (.stage 3) ∧ decodeTableWord 8 0x119 = some .fft :=
  ⟨rfl, rfl⟩

/-- V-Z1: `FFT` as the first command after reset is a length error. -/
theorem test_fetch_word_after_reset :
    (after (step (State.reset.withFetchWord 32 0x19))).map (fun t => (t.cmd, statusWord t)) = some (0x19, 0x02) := by
  decide +kernel

/-! ### Trigonometric unit -/

/-- V-K1. -/
theorem test_sin_zero : (cmd 0x01 { State.reset with fa0 := negZero, fr1 := 7 }).map (fun t => (t.fr0, t.fr1)) =
    some (0x8000000000000000, 7) := by decide +kernel

/-- V-K1. -/
theorem test_cos_zero : (cmd 0x02 { State.reset with fa0 := negZero, fr1 := 7 }).map (fun t => (t.fr0, t.fr1)) =
    some (0x3FF0000000000000, 7) := by decide +kernel

/-- V-K2: no error on a non-finite operand. -/
theorem test_sin_infinite : statusAfter 0x01 { State.reset with fa0 := posInf } = some 0 := by decide +kernel

/-- The numbers of the reconstructed kernel G6 (93_implementation_defined.md), an admissible choice: a test of the transcription of
the algorithm. -/
def g6 : KernelNumbers where
  fourByPi := 0x3FF45F306DC9C883
  pa := 0x3FE921FB40000000
  pb := 0x3E64442D00000000
  pc := 0x3CE8469898CC5170
  sinC := (0x3DE5D8FD1FD19CCD, 0xBE5AE5E5A9291F5D, 0x3EC71DE3567D48A1, 0xBF2A01A019BFDF03, 0x3F8111111110F7D0,
    0xBFC5555555555548)
  cosC := (0xBDA8FA49A0861A9B, 0x3E21EE9D7B4E3F05, 0xBE927E4F7EAC4BC6, 0x3EFA01A019C844F5, 0xBF56C16C16C14F91,
    0x3FA555555555554B)

/-- V-K3. -/
theorem test_kernel_sin : kernelSin g6 (fun _ => (0, 0)) 0x3FF0000000000000 = 0x3FEAED548F090CEE ∧
    kernelSin g6 (fun _ => (0, 0)) 0x400921FB54442D18 = 0x3CA1A62633145C00 := by decide +kernel

/-- V-K3. -/
theorem test_kernel_cos : kernelCos g6 (fun _ => (0, 0)) 0x3FF0000000000000 = 0x3FE14A280FB5068C ∧
    kernelCos g6 (fun _ => (0, 0)) 0x400921FB54442D18 = 0xBFF0000000000000 := by decide +kernel

/-! ### Bit reversal -/

/-- V-B1. -/
theorem test_brev : [(10, 5), (12, 3), (13, 11), (0xA0000001, 0x80000005), (0x12345678, 0x03CD4589)].all
    (fun (p : U32 × U32) => (cmd 0x08 { State.reset with arg0 := p.1 }).map (·.res) == some p.2) = true := by
  decide +kernel

/-- V-B2. -/
theorem test_brevn : [(10, 4, 5), (1, 32, 0x80000000), (0x12345678, 16, 0x1E6A), (0x1F, 3, 7), (0x1F, 0, 0)].all
    (fun (p : U32 × U32 × U32) =>
      (cmd 0x09 { State.reset with arg0 := p.1, arg1 := p.2.1 }).map (·.res) == some p.2.2) = true := by
  decide +kernel

/-- V-B3. -/
theorem test_brevn_size : (cmd 0x09 { State.reset with arg1 := 33, res := 9 }).map (fun t => (statusWord t, t.res)) =
    some (0x03, 9) := by decide +kernel

/-- V-B4: the real parts 0 to 7. -/
theorem test_reorder : (cmd 0x0A (withX [0, 9, 1, 9, 2, 9, 3, 9, 4, 9, 5, 9, 6, 9, 7, 9] (atLen 3))).map
    (fun t => (statusWord t, (List.range 8).map (fun i => (t.x i).re), (t.z 1).re)) =
    some (0x10, [0, 4, 2, 6, 1, 5, 3, 7], 1) := by decide +kernel

/-! ### Twiddle ROM and multiplier -/

/-- V-Q1. -/
theorem test_twld : (cmd 0x10 (atLen 13)).map (fun t => (t.fr0, t.fr1)) =
    some (0x3FF0000000000000, 0x8000000000000000) := by decide +kernel

/-- V-Q1. -/
theorem test_twld_errors : statusAfter 0x10 { atLen 3 with arg0 := 8 } = some 3 ∧
    statusAfter 0x10 { atLen 14 with arg0 := 0xFFFFFFFF } = some 2 := by decide +kernel

/-- V-C2. -/
theorem test_cmul_rounds_each_step : (cmd 0x03 { State.reset with
      fa0 := 0x3FB999999999999A, fa1 := 0x3FC999999999999A, fb0 := 0x3FD3333333333333, fb1 := 0x3FD999999999999A }).map
    (fun t => (t.fr0, t.fr1)) = some (0xBFA999999999999C, 0x3FB999999999999A) := by decide +kernel

/-- V-C3, V-C4. -/
theorem test_cmul_special : cmul ⟨negZero, posZero⟩ ⟨one, negZero⟩ = ⟨0, 0⟩ ∧
    cmul ⟨posInf, posZero⟩ ⟨one, negZero⟩ = ⟨0x7FF0000000000000, 0x7FF8000000000000⟩ ∧
    cmul ⟨0x6974E718D7D7625A, 0x6974E718D7D7625A⟩ ⟨0x6974E718D7D7625A, 0x6974E718D7D7625A⟩ =
      ⟨0x7FF8000000000000, 0x7FF0000000000000⟩ := by decide +kernel

/-! ### Transforms -/

/-- V-T1: the imaginary parts `+0`. -/
theorem test_stage : (cmd 0x118 (withX [0x3FF0000000000000, 0, 0x4000000000000000, 0] (atLen 1))).map
    (fun t => (statusWord t, xWords 4 t)) = some (0x10, [0x4008000000000000, 0, 0xBFF0000000000000, 0]) := by
  decide +kernel

/-- V-T1b: the product form. -/
theorem test_stage_product_form : (cmd 0x218 (withX [0x3FF0000000000000, 0, 0, 0, posInf, 0, 0, 0] (atLen 2))).map
    (fun t => (t.x 0, t.x 2)) = some (⟨0x7FF0000000000000, 0x7FF8000000000000⟩, ⟨0xFFF0000000000000, 0x7FF8000000000000⟩) := by
  decide +kernel

/-- V-T7 (a). -/
theorem test_fft : (cmd 0x19 (withX [0x3FF0000000000000, 0, 0x4000000000000000, 0] (atLen 1))).map
    (fun t => (statusWord t, xWords 4 t)) = some (0x00, [0x4008000000000000, 0, 0xBFF0000000000000, 0]) := by
  decide +kernel

/-- V-T4: what needs no twiddle but the first. -/
theorem test_fft_four : (cmd 0x19 (withX [one, 0, one, 0, one, 0, one, 0] (atLen 2))).map
    (fun t => (statusWord t, t.x 0, t.x 2, t.z 0, t.z 1)) =
    some (0x10, ⟨0x4010000000000000, 0⟩, ⟨0, 0⟩, ⟨0x4000000000000000, 0⟩, ⟨0, 0⟩) := by decide +kernel

/-- V-T5, on patterns that `REVCOPY` only moves. -/
theorem test_revcopy : (cmd 0x1A (withX [1, 10, 2, 20, 3, 30, 4, 40] (atLen 2))).map
    (fun t => (statusWord t, xWords 8 t)) = some (0x10, [1, 10, 4, 40, 3, 30, 2, 20]) := by decide +kernel

/-- V-T5: entry 0, and `(1.0, 10.0)` at entry 3. -/
theorem test_scale : (cmd 0x1B { atLen 2 with
      memXA := [(0, 0x3FF0000000000000), (1, 0x4024000000000000), (6, 0x4000000000000000), (7, 0x4034000000000000)] }).map
    (fun t => (statusWord t, t.x 0, t.x 3)) =
    some (0x00, ⟨0x3FD0000000000000, 0x4004000000000000⟩, ⟨0x3FE0000000000000, 0x4014000000000000⟩) := by decide +kernel

/-- V-T5: subnormals, a zero and an infinity divided by 8192. -/
theorem test_scale_special :
    [(1, 0), (0x8000000000000000, 0x8000000000000000), (3, 0), (0x7FF0000000000000, 0x7FF0000000000000)].all
      (fun (p : F64 × F64) => fdiv p.1 (i2f 8192) == p.2) = true := by decide +kernel

/-- V-T7 (c): the signs of zero after `FFT` are those that `IFFT` starts from here. -/
theorem test_ifft : (cmd 0x1C (withX [negZero, negZero, 0, 0] (atLen 1))).map (fun t => (statusWord t, xWords 4 t)) =
    some (0x10, [0, 0, negZero, negZero]) := by decide +kernel

/-- V-T12. -/
theorem test_cmulv : (cmd 0x1D (withX [0x4008000000000000, 0x4010000000000000, 0x4014000000000000, 0]
      (withY [0x3FF0000000000000, 0x4000000000000000, 0, 0] (atLen 1)))).map (fun t => (statusWord t, xWords 4 t)) =
    some (0x00, [0xC014000000000000, 0x4024000000000000, 0, 0]) := by decide +kernel

/-- R211. -/
theorem test_xchg : (cmd 0x1E (withX [1, 2, 3, 4] (withY [5, 6, 7, 8] (atLen 1)))).map
    (fun t => (t.memXA, t.memY)) = some (wordsFrom 0 [5, 6, 7, 8], wordsFrom 0 [1, 2, 3, 4]) := by decide +kernel

/-- V-E6, V-E7. -/
theorem test_two_sequences_errors : statusAfter 0x1F { State.reset with ylog2n := 1 } = some 2 ∧
    [0x1D, 0x1E, 0x1F].all (fun c => statusAfter c { atLen 2 with ylog2n := 3 } == some 4) = true := by decide +kernel

/-- V-T8 and P3: the working buffer, the other buffer and `Y` at the end. -/
theorem test_conv : (cmd 0x1F (withX [0x3FF0000000000000, 0, 0x4000000000000000, 0]
      (withY [0x4008000000000000, 0, 0x4010000000000000, 0] (atLen 1)))).map
    (fun t => (statusWord t, [t.memXB, t.memXA, t.memY])) =
    some (0x10, [wordsFrom 0 [0x4026000000000000, 0, 0x4024000000000000, 0],
      wordsFrom 0 [0x4035000000000000, 0, 0x3FF0000000000000, 0x8000000000000000],
      wordsFrom 0 [0x4008000000000000, 0, 0xBFF0000000000000, 0]]) := by decide +kernel

/-! ### Windows and sizes -/

/-- V-W1, `L = 4`. -/
theorem test_wgen_bartlett : (cmd 0x320 { State.reset with arg0 := 4 }).map (fun t => (t.wlen, t.memW)) =
    some (4, wordsFrom 0 [0, 0x3FE5555555555555, 0x3FE5555555555556, 0]) := by decide +kernel

/-- V-W2, at `L = 2`, and V-S2 at `L = 1`. -/
theorem test_wgen_start : [(0x020, 0x3FB47AE147AE147C), (0x120, 0), (0x220, 0xBC70000000000000), (0x420, 0xBF3A36E2EB1C4440)].all
    (fun (p : BitVec 32 × Word) =>
      (cmd p.1 { State.reset with arg0 := 2 }).map (fun t => t.word .w 0) == some p.2 &&
      (cmd p.1 { State.reset with arg0 := 1 }).map (fun t => t.memW) == some [(0, 0x3FF0000000000000)]) = true := by
  decide +kernel

/-- V-W5. -/
theorem test_wapply : (cmd 0x21 (withS [0x4008000000000000, 0x4010000000000000]
      { atLen 1 with wlen := 2, memW := wordsFrom 0 [half, two] })).map (fun t => (statusWord t, t.memS)) =
    some (0x00, wordsFrom 0 [0x3FF8000000000000, 0x4020000000000000]) := by decide +kernel

/-- V-R1. -/
theorem test_resolve : [(0, 8), (8, 8), (9, 16), (1025, 2048), (8191, 8192), (8193, 8192), (0xFFFFFFFF, 8192)].all
    (fun (p : U32 × U32) => (cmd 0x22 { State.reset with arg0 := p.1 }).map (·.res) == some p.2) = true := by
  decide +kernel

/-- V-R2. -/
theorem test_asblock : [(8, 8), (2048, 2048), (8192, 8192), (0, 1024), (4, 1024), (9, 1024), (16384, 1024)].all
    (fun (p : U32 × U32) => (cmd 0x23 { State.reset with arg0 := p.1 }).map (·.res) == some p.2) = true := by
  decide +kernel

/-! ### Analyzer -/

/-- V-A4: the patterns move, a signalling NaN among them. -/
theorem test_lift : (cmd 0x28 (withS [0x7FF0000000000001, negZero] (atLen 1))).map (fun t => (statusWord t, t.memXA)) =
    some (0x00, wordsFrom 0 [0x7FF0000000000001, 0, negZero, 0]) := by decide +kernel

/-- V-A1: `X[0]`, `X[2]` and `X[3]` are never written. -/
theorem test_mag : (cmd 0x29 { atLen 2 with
      srate := 44100, memXA := wordsFrom 2 [0x4008000000000000, 0x4010000000000000] }).map
    (fun t => (t.olen, t.memOF, t.memOM)) = some (1, [(0, 11025)], [(0, 0x4014000000000000)]) := by decide +kernel

/-- V-A5. -/
theorem test_mag_corners : (cmd 0x29 { atLen 3 with
      srate := 0xFFFFFFFF,
      memXA := wordsFrom 2 [0x6974E718D7D7625A, 0, 0x16687E92154EF7AC, 0, 0x7FF0000000000001, one] }).map
    (fun t => (t.olen, t.memOF, t.memOM)) =
    some (3, [(0, 536870911), (1, 1073741823), (2, 1610612735)],
      wordsFrom 0 [0x7FF0000000000000, 0, 0x7FF8000000000000]) := by decide +kernel

/-- V-A2: what needs no twiddle but the first. -/
theorem test_analyze : (cmd 0x2A { withS [one, 0, 0xBFF0000000000000, 0] (atLen 2) with srate := 8 }).map
    (fun t => (statusWord t, t.olen, t.memOF, [t.x 0, t.x 2])) =
    some (0x10, 1, [(0, 2)], [⟨0, 0⟩, ⟨0, 0⟩]) := by decide +kernel

/-- V-E9, V-E14, V-E8. -/
theorem test_analyze_errors : statusAfter 0x12A State.reset = some 2 ∧
    statusAfter 0x12A { atLen 2 with wlen := 3 } = some 4 ∧ statusAfter 0x2A { atLen 2 with wlen := 3 } = some 0x10 ∧
    statusAfter 0x22A State.reset = some 1 := by decide +kernel

/-! ### Errors, the host port -/

/-- V-E10, V-E11, V-E13. -/
theorem test_error_priority : statusAfter 0x520 { State.reset with arg0 := 9000 } = some 1 ∧
    statusAfter 0x20 { State.reset with arg0 := 9000 } = some 3 ∧ statusAfter 0x19 (atLen 15) = some 2 ∧
    statusAfter 0x2B { State.reset with sel := true } = some 0x11 := by decide +kernel

/-- V-E4, V-E5, V-E12. -/
theorem test_stage_errors_and_nop : statusAfter 0x18 State.reset = some 2 ∧ statusAfter 0x318 (atLen 2) = some 3 ∧
    statusAfter 0x00 { State.reset with err := .mismatch } = some 0 := by decide +kernel

/-- V-M1. -/
theorem test_width_truncation : (wr 0x02 0x1F State.reset).bind (rd 0x02) = some 0xF ∧
    (wr 0x05 0x12345 State.reset).bind (rd 0x05) = some 0x2345 ∧
    (wr 0x00 0x000000010000002A State.reset).map (·.cmd) = some 0x2A := by decide +kernel

/-- V-M2: each is refused. -/
theorem test_bus_errors : [(0x01 : Addr), 0x0A, 0x14000, 0x16000].all (fun a => wr a 1 State.reset == none) = true ∧
    [(0x07 : Addr), 0x16].all (fun a => rd a State.reset == none) = true := by decide +kernel

/-- V-M3: the `X` window follows `SEL`. -/
theorem test_window_follows_sel :
    (wr 0x08001 5 { State.reset with sel := true }).map (fun t => (t.memXA, t.memXB)) = some ([], [(1, 5)]) := by
  decide +kernel

/-- V-M4. -/
theorem test_frequency_word : rd 0x15000 { State.reset with memOF := [(0, 11025)] } = some 0x0000000000002B11 := by
  decide +kernel

/-- R241 as the formula has it, against the remark beside it: at `L = 12` the last argument is not `K2` (log entry 11). -/
theorem test_last_window_argument : warg k2 11 12 ≠ k2 ∧ warg k2 1 2 = k2 := by decide +kernel

/-! ### Witnesses: for every claim with hypotheses, a state and operands that meet them together, a boundary value for each clause -/

/-- Legal lengths at both ends, with the window as long as the sequence, and illegal ones on both sides. -/
theorem witness_lengths : ValidLen (atLen 1) ∧ ValidLen (atLen 13) ∧ ¬ ValidLen (atLen 0) ∧ ¬ ValidLen (atLen 14) ∧
    pts (atLen 1) = 2 ∧ pts (atLen 13) = 8192 := by unfold ValidLen; decide +kernel

/-- The hypotheses of the statements about one sequence (`SCALE`, `LIFT`, `MAG`, `REVCOPY`, `REORDER`, `FFT`, `IFFT` …): they are
`ValidLen` and its negation. -/
theorem witness_ReorderPermutes : ValidLen (atLen 13) ∧ (8191 < pts (atLen 13)) ∧ ¬ ValidLen (atLen 14) := by
  unfold ValidLen; decide +kernel

theorem witness_ReorderTwiceRestores : 8191 < 2 ^ 13 ∧ ValidLen (atLen 1) ∧ 1 < pts (atLen 1) := by
  unfold ValidLen; decide +kernel

theorem witness_RevcopyReverses : ValidLen (atLen 1) ∧ (1 ≤ 1 ∧ 1 < pts (atLen 1)) ∧ ¬ ValidLen (atLen 0) := by
  unfold ValidLen; decide +kernel

theorem witness_ScaleDividesByN : ValidLen (atLen 13) ∧ 8191 < pts (atLen 13) ∧ ¬ ValidLen (atLen 15) := by
  unfold ValidLen; decide +kernel

theorem witness_LiftMakesComplexSamples : ValidLen (atLen 1) ∧ 1 < pts (atLen 1) ∧ ¬ ValidLen (atLen 0) := by
  unfold ValidLen; decide +kernel

theorem witness_MagComputesPairs : ValidLen (atLen 13) ∧ (1 ≤ 4095 ∧ 4095 ≤ pts (atLen 13) / 2 - 1) ∧
    (1 ≤ 1 ∧ 1 ≤ pts (atLen 2) / 2 - 1) ∧ pts (atLen 1) / 2 - 1 ≤ 0 ∧ ¬ ValidLen (atLen 14) := by
  unfold ValidLen; decide +kernel

theorem witness_FrequenciesAscendBelowNyquist :
    ValidLen { atLen 11 with srate := 44100 } ∧ (91 ≤ 92 ∧ 92 < pts (atLen 11) / 2 - 1) ∧ 0 < (44100 : BitVec 32).toNat ∧
    (atLen 11).log2n = 11 ∧ State.reset.srate = 0 := by unfold ValidLen; decide +kernel

theorem witness_CmulvMultipliesPointwise : (ValidLen (atLen 13) ∧ (atLen 13).ylog2n = (atLen 13).log2n) ∧
    ¬ ValidLen (atLen 0) ∧ (ValidLen { atLen 1 with ylog2n := 2 } ∧ { atLen 1 with ylog2n := 2 }.ylog2n ≠ (atLen 1).log2n) := by
  unfold ValidLen; decide +kernel

theorem witness_XchgExchanges : (ValidLen (atLen 1) ∧ (atLen 1).ylog2n = (atLen 1).log2n) ∧ ¬ ValidLen (atLen 14) ∧
    (ValidLen { atLen 13 with ylog2n := 0 } ∧ { atLen 13 with ylog2n := 0 }.ylog2n ≠ (atLen 13).log2n) := by
  unfold ValidLen; decide +kernel

theorem witness_CompositesArePrimitiveSequences : ValidLen { atLen 2 with wlen := 4 } ∧
    { atLen 2 with wlen := 4 }.ylog2n = (atLen 2).log2n ∧ (4 : BitVec 14).toNat = pts (atLen 2) ∧
    { atLen 2 with ylog2n := 3 }.ylog2n ≠ (atLen 2).log2n ∧ (atLen 2).wlen.toNat ≠ pts (atLen 2) ∧ ¬ ValidLen (atLen 14) ∧
    1 < (2 : BitVec 8).toNat := by
  unfold ValidLen; decide +kernel

theorem witness_WapplyMultipliesSamples : (ValidLen { atLen 13 with wlen := 8192 } ∧ (8192 : BitVec 14).toNat = pts (atLen 13)) ∧
    ¬ ValidLen (atLen 0) ∧ (ValidLen (atLen 1) ∧ (atLen 1).wlen.toNat ≠ pts (atLen 1)) := by unfold ValidLen; decide +kernel

theorem witness_TwldReadsTheRom : (ValidLen (atLen 13) ∧ (8191 : U32).toNat < pts (atLen 13)) ∧ (atLen 1).arg0 = 0 ∧
    ¬ ValidLen (atLen 14) ∧ (ValidLen { atLen 1 with arg0 := 2 } ∧ pts (atLen 1) ≤ (2 : U32).toNat) := by
  unfold ValidLen; decide +kernel

theorem witness_TwiddleArguments : (1 ≤ 1 ∧ 1 ≤ 8191) ∧ (1 ≤ 8191 ∧ 8191 ≤ 8191) := by decide

theorem witness_DoublingConstructionAgrees : (1 ≤ 12 ∧ 12 ≤ 12 ∧ 4095 < 2 ^ 12) ∧ (1 ≤ 13 ∧ 13 ≤ 13 ∧ 8191 < 2 ^ 13) := by
  decide

theorem witness_StageButterflies :
    (ValidLen (atLen 1) ∧ 1 ≤ (1 : BitVec 8).toNat ∧ (1 : BitVec 8).toNat ≤ (atLen 1).log2n.toNat ∧ 0 < pts (atLen 1) / 2) ∧
    (ValidLen (atLen 13) ∧ 2 ≤ (13 : BitVec 8).toNat ∧ (13 : BitVec 8).toNat ≤ (atLen 13).log2n.toNat ∧
      0 < pts (atLen 13) / 2 ^ 13 ∧ 4095 < 2 ^ (13 - 1)) ∧
    ¬ ValidLen (atLen 0) ∧ (0 : BitVec 8).toNat = 0 ∧ (atLen 1).log2n.toNat < (2 : BitVec 8).toNat := by
  unfold ValidLen; decide +kernel

theorem witness_CompositeFrames :
    (∃ t, exec .fft (atLen 1) = .next t ∧ t.err = .ok) ∧ (∃ t, exec .ifft (atLen 1) = .next t ∧ t.err = .ok) ∧
    (∃ t, exec .conv (atLen 1) = .next t ∧ t.err = .ok) ∧ (∃ t, exec (.analyze 0) (atLen 1) = .next t ∧ t.err = .ok) ∧
    ∃ t, exec (.analyze 1) { atLen 1 with wlen := 2 } = .next t ∧ t.err = .ok :=
  ⟨⟨_, rfl, by decide +kernel⟩, ⟨_, rfl, by decide +kernel⟩, ⟨_, rfl, by decide +kernel⟩, ⟨_, rfl, by decide +kernel⟩,
    ⟨_, rfl, by decide +kernel⟩⟩

/-- An impulse of two and of four. -/
theorem witness_FftOfImpulseIsOnes :
    (ValidLen (withX [one, 0, 0, 0] (atLen 1)) ∧ (withX [one, 0, 0, 0] (atLen 1)).x 0 = ⟨one, posZero⟩ ∧
      ∀ i, 1 ≤ i → i < 2 → (withX [one, 0, 0, 0] (atLen 1)).x i = ⟨posZero, posZero⟩) ∧
    (withX [one, 0, 0, 0, 0, 0, 0, 0] (atLen 2)).x 3 = ⟨posZero, posZero⟩ := by
  refine ⟨⟨by unfold ValidLen; decide +kernel, by decide +kernel, fun i h1 h2 => ?_⟩, by decide +kernel⟩
  obtain rfl : i = 1 := by omega
  decide +kernel

theorem witness_WgenWritesTheWindow : ((4 : BitVec 8).toNat ≤ 4 ∧ (8192 : U32).toNat ≤ 8192 ∧ 2 ≤ (8192 : U32).toNat ∧
      8191 < (8192 : U32).toNat) ∧ (1 : U32).toNat = 1 ∧ State.reset.arg0.toNat ≤ 8192 ∧ 4 < (5 : BitVec 8).toNat ∧
    8192 < (8193 : U32).toNat := by decide

theorem witness_WindowEndPoints : (3 : BitVec 8).toNat ≤ 4 ∧ 2 ≤ (2 : U32).toNat ∧ (2 : U32).toNat ≤ 8192 ∧
    (3 : BitVec 8).toNat = 3 := by decide

theorem witness_ResolveGivesSmallestMember : (8192 : U32).toNat ≤ 8192 ∧ 8192 < (8193 : U32).toNat ∧
    (3 ≤ 13 ∧ 13 ≤ 13 ∧ (8192 : U32).toNat = 2 ^ 13) ∧ (8191 : U32).toNat ≤ (8192 : U32).toNat ∧
    (∃ t, exec .resolve { State.reset with arg0 := 8191 } = .next t) ∧
    ∃ t, exec .resolve { State.reset with arg0 := 8192 } = .next t :=
  ⟨by decide, by decide, by decide, by decide, ⟨_, rfl⟩, ⟨_, rfl⟩⟩

theorem witness_AsblockTestsMembership : (∃ e, 3 ≤ e ∧ e ≤ 13 ∧ (8 : U32).toNat = 2 ^ e) ∧
    ¬ ∃ e, 3 ≤ e ∧ e ≤ 13 ∧ (16384 : U32).toNat = 2 ^ e := by
  refine ⟨⟨3, by decide⟩, fun ⟨e, h1, h2, h⟩ => ?_⟩
  have : 2 ^ e ≤ 2 ^ 13 := Nat.pow_le_pow_right (by decide) h2
  have h3 : (16384 : U32).toNat = 2 ^ 14 := rfl
  omega

theorem witness_BrevnReversesLowBits : (32 : U32).toNat ≤ 32 ∧ 32 < (33 : U32).toNat ∧ 3 < 4 ∧ 4 ≤ 4 := by decide

theorem witness_BrevReversesWithinBitLength : 3 < (11 : U32).toNat.size ∧ (11 : U32).toNat.size ≤ 4 := by decide

theorem witness_BrevTwiceDropsTrailingZeros : (3 % 2 = 1 ∧ 2 ^ 1 * 3 < 2 ^ 32) ∧ 2 ^ 32 - 1 < 2 ^ 32 := by decide

theorem witness_SinCosCommands : isFinite ({ State.reset with fa0 := one } : State).fa0 = true ∧
    isFinite ({ State.reset with fa0 := posInf } : State).fa0 = false := by decide +kernel

theorem witness_KernelContractHolds : (isFinite one = true ∧ signBit one = false) ∧
    (isFinite (fneg one) = true ∧ signBit (fneg one) = true) := by decide +kernel

theorem witness_KernelAlgorithmSignsAndZero : NumbersFinite g6 := by unfold NumbersFinite; decide +kernel

theorem witness_CmulCommand : isNaN qNaN = true ∧ (isFinite one = true ∧ isZero one = false) ∧
    (isFinite negZero = true ∧ isZero negZero = true) := by decide +kernel

theorem witness_MagnitudeSpecialValues :
    let s := withX [0, 0, 0x7FF0000000000001, 0, negInf, one, one, one] (atLen 3)
    ValidLen s ∧ (1 ≤ 1 ∧ 3 ≤ pts s / 2 - 1) ∧ isNaN (s.x 1).re = true ∧ (isInf (s.x 2).re = true ∧ isNaN (s.x 2).im = false) := by
  unfold ValidLen; decide +kernel

/-! Numbers as reals. -/

theorem realValue_one : realValue one = 1 := by
  have h : signedUnits one = 2 ^ 1074 := by decide +kernel
  rw [realValue, h]; norm_num

theorem realValue_fneg_one : realValue (fneg one) = -1 := by
  have h : signedUnits (fneg one) = -2 ^ 1074 := by decide +kernel
  rw [realValue, h]; norm_num

theorem witness_FaddRoundsTheExactSum : isNaN qNaN = true ∧
    (isFinite one = true ∧ realValue one + realValue one ≠ 0) ∧
    (isFinite (fneg one) = true ∧ realValue one + realValue (fneg one) = 0) ∧
    (isZero negZero = true ∧ isFinite one = true ∧ isZero one = false) ∧ isInf posInf = true ∧ isInf negInf = true := by
  refine ⟨by decide +kernel, ⟨by decide +kernel, ?_⟩, ⟨by decide +kernel, ?_⟩, by decide +kernel, by decide +kernel,
    by decide +kernel⟩
  · rw [realValue_one]; norm_num
  · rw [realValue_one, realValue_fneg_one]; norm_num

theorem witness_FmulRoundsTheExactProduct : isNaN qNaN = true ∧ isNaN (fmul one (fneg one)) = false ∧
    (isFinite one = true ∧ isZero one = false) ∧ (isZero negZero = true ∧ isFinite one = true) ∧
    (isInf negInf = true ∧ isNaN one = false ∧ isZero one = false) ∧ isInf posInf = true := by decide +kernel

theorem witness_FdivRoundsTheExactQuotient : isNaN (fdiv one two) = false ∧ (isFinite one = true ∧ isZero two = false) ∧
    (isNaN one = false ∧ isZero one = false ∧ isZero negZero = true) ∧ (isInf negInf = true ∧ isFinite one = true) ∧
    (1 ≤ 8192 ∧ 8192 ≤ 8192) ∧ (isFinite one = true ∧ 13 ≤ 13 ∧ (2 : ℝ) ^ (-1022 : ℤ) ≤ |realValue one / 2 ^ 13|) := by
  refine ⟨by decide +kernel, by decide +kernel, by decide +kernel, by decide +kernel, by decide, by decide +kernel, by decide,
    ?_⟩
  rw [realValue_one, abs_of_pos (by positivity), one_div, ← zpow_natCast, ← zpow_neg]
  exact zpow_le_zpow_right₀ (by norm_num) (by norm_num)

theorem witness_FsqrtRoundsTheExactRoot : (isFinite one = true ∧ 0 < realValue one) ∧
    (isFinite (fneg one) = true ∧ realValue (fneg one) < 0) ∧ isNaN qNaN = true := by
  refine ⟨⟨by decide +kernel, ?_⟩, ⟨by decide +kernel, ?_⟩, by decide +kernel⟩
  · rw [realValue_one]; norm_num
  · rw [realValue_fneg_one]; norm_num

theorem witness_NegAbsAndIntegerConversion : 63 < 64 ∧ 8192 ≤ 8192 := by decide

/-! The encoding, the port and the whole machine. -/

theorem witness_EncodedCommandDecodesToItself : (Instr.stage 255).wellFormed ∧ (Instr.wgen 4).wellFormed ∧
    (Instr.analyze 1).wellFormed ∧ Instr.nop.wellFormed := by decide

theorem witness_EveryLegalWordHasOneMeaning : decode 0x0000FF18 = .ok (.stage 255) ∧ decode 0x0000012A = .ok (.analyze 1) :=
  ⟨rfl, rfl⟩

theorem witness_IllegalWordsRaiseIllegal : IllegalWord ((0x00010019 : Word).setWidth 32) ∧
    (IllegalWord 0x80000000 ∧ IllegalWord 0x119 ∧ IllegalWord 0x2B) ∧ (IllegalWord 0x520 ∧ IllegalWord 0x22A) ∧
    ¬ IllegalWord 0x420 ∧ ¬ IllegalWord 0xFF18 := by
  simp only [IllegalWord]
  exact ⟨by decide +kernel, by decide +kernel, by decide +kernel, by decide +kernel⟩

theorem witness_CommandWriteRunsDecodedCommand : decode ((0x000000010000002A : Word).setWidth 32) = .ok (.analyze 0) ∧
    (Instr.analyze 0).wellFormed := ⟨rfl, rfl⟩

/-- A state with written memories that meets the invariant, and a pending command. -/
def busy : State :=
  { withX [one, 0, 0, 0] (atLen 1) with olen := 4095, port := ⟨[commandAction 0x19, .read 0x14000, .write 0x13FFF 5, .reset], []⟩ }

theorem busy_inv : busy.Inv := ⟨by decide +kernel, by decide +kernel⟩

theorem witness_StepKeepsInvariant : busy.Inv ∧ ∃ t, step busy = .next t := ⟨busy_inv, ⟨_, rfl⟩⟩

theorem witness_AllowedRunsAreSafe : busy.Inv ∧ ∀ h ∈ busy.port.pending, h.allowed busy = true :=
  ⟨busy_inv, by decide +kernel⟩

/-- The last word of every window of the address map (R61). -/
theorem witness_HostAddressMap : 8191 < 8192 ∧ 4095 < 4096 ∧ locate (addr (0x08000 + 2 * 8191 + 1)) = some (.xWindow 16383) ∧
    locate (addr (0x0C000 + 2 * 8191 + 1)) = some (.mem .y 16383) ∧ locate (addr (0x10000 + 8191)) = some (.mem .s 8191) ∧
    locate (addr (0x12000 + 8191)) = some (.mem .w 8191) ∧ locate (addr (0x14000 + 4095)) = some (.mem .om 4095) ∧
    locate (addr (0x15000 + 4095)) = some (.freq 4095) := by decide +kernel

theorem witness_HostWriteThenRead : ((0x0BFFF : Addr) ≠ 0 ∧ locate 0x0BFFF = some (.xWindow 16383) ∧
      ∃ t, step (State.reset.offer (.write 0x0BFFF 7)) = .next t) ∧
    ((0x00005 : Addr) ≠ 0 ∧ locate 0x00005 = some (.reg .wlen) ∧
      ∃ t, step (State.reset.offer (.write 0x00005 0x12345)) = .next t) ∧
    ((0x14000 : Addr) ≠ 0x0BFFF ∧ locate 0x14000 = some (.mem .om 0)) :=
  ⟨⟨by decide, by decide +kernel, ⟨_, rfl⟩⟩, ⟨by decide, by decide +kernel, ⟨_, rfl⟩⟩, by decide, by decide +kernel⟩

/-- Both ends of every range, and their neighbours. -/
theorem witness_BusErrorsAreRefused :
    ([0x7, 0xB, 0xF, 0x16, 0x7FFF, 0x16000, 0x1FFFF].all fun a => decide (Unmapped (addr a).toNat)) = true ∧
    ([0x1, 0x6, 0xA, 0x14, 0x15, 0x14000, 0x15FFF].all fun a =>
      decide (ReadOnly (addr a).toNat ∧ ¬ Unmapped (addr a).toNat)) = true ∧
    ([0x0, 0x8, 0x10, 0x13, 0x8000, 0x13FFF].all fun a =>
      decide (¬ ReadOnly (addr a).toNat ∧ ¬ Unmapped (addr a).toNat)) = true := by
  decide +kernel

theorem witness_OtherBufferHiddenFromHost : locate 0x08000 = some (.xWindow 0) ∧ (0x08000 : Addr) ≠ 0 ∧
    ∃ t, step (State.reset.offer (.write 0x08000 7)) = .next t := ⟨by decide +kernel, by decide, ⟨_, rfl⟩⟩

theorem witness_StatusWordFields : 5 ≤ 5 ∧ (statusWord { State.reset with sel := true, err := .mismatch }) = 0x14 := by
  decide +kernel

theorem witness_FailedCommandChangesOnlyErr : (∃ t, exec .fft State.reset = .next t ∧ t.err ≠ .ok) ∧
    ∃ t, step (State.reset.offer (commandAction 0x2B)) = .next t ∧ t.err ≠ .ok :=
  ⟨⟨_, rfl, by decide +kernel⟩, ⟨_, rfl, by decide +kernel⟩⟩

theorem witness_ResetRegistersZeroAndLengthUnset : (Instr.stage 255).wellFormed ∧ usesLength (.stage 255) = true := by decide

/-- One input for each clause. -/
theorem witness_FirstFailingCheckIsReported : ¬ (Instr.wgen 5).wellFormed ∧
    ((Instr.stage 0).wellFormed ∧ usesLength (.stage 0) = true ∧ ¬ ValidLen (atLen 0)) ∧
    (Instr.brevn.wellFormed ∧ usesLength .brevn = false ∧ OperandBad { State.reset with arg1 := 33 } .brevn) ∧
    (Instr.conv.wellFormed ∧ ValidLen { atLen 2 with ylog2n := 3 } ∧ ¬ OperandBad (atLen 2) .conv ∧
      LengthsDiffer { atLen 2 with ylog2n := 3 } .conv) ∧
    (ValidLen (atLen 2) ∧ ¬ OperandBad (atLen 2) .conv ∧ ¬ LengthsDiffer (atLen 2) .conv) := by
  unfold ValidLen OperandBad LengthsDiffer; decide +kernel

theorem witness_OnlyNamedCommandsWrite : ∃ t, exec .mag (atLen 13) = .next t ∧ t.olen ≠ (atLen 13).olen :=
  ⟨_, rfl, by decide +kernel⟩

theorem witness_EntriesAboveNNeverWritten : (∃ t, exec .reorder (atLen 1) = .next t) ∧ 2 * pts (atLen 1) ≤ 4 :=
  ⟨⟨_, rfl⟩, by decide +kernel⟩

/-- Two states with other data and one control. -/
theorem witness_ControlFlowIgnoresData : control (atLen 1) = control (withX [qNaN, one] (atLen 1)) ∧
    (∀ j, (atLen 1).freq j = (withX [qNaN, one] (atLen 1)).freq j) ∧ (∃ t, exec .fft (atLen 1) = .next t) ∧
    ∃ t, exec .fft (withX [qNaN, one] (atLen 1)) = .next t := ⟨by decide +kernel, fun _ => rfl, ⟨_, rfl⟩, ⟨_, rfl⟩⟩

theorem witness_SelFlipsPerCommand : (∃ t, exec .reorder (atLen 1) = .next t ∧ t.err = .ok) ∧
    ∃ t, exec .reorder (atLen 0) = .next t ∧ t.err ≠ .ok := ⟨⟨_, rfl, by decide +kernel⟩, ⟨_, rfl, by decide +kernel⟩⟩

end Sys2Proof.Tests
end

section
/-! What the host's addresses and writes do (20_memory.md R61 to R66), and the fields of `STATUS` (10_state.md R25). -/

namespace Sys2Proof.Machine

/-! ### The address map -/

/-- The address of a register (R24). -/
def regAddress : Reg → Nat
  | .cmd => 0x00
  | .status => 0x01
  | .log2n => 0x02
  | .ylog2n => 0x03
  | .srate => 0x04
  | .wlen => 0x05
  | .olen => 0x06
  | .arg0 => 0x08
  | .arg1 => 0x09
  | .res => 0x0A
  | .fa0 => 0x10
  | .fa1 => 0x11
  | .fb0 => 0x12
  | .fb1 => 0x13
  | .fr0 => 0x14
  | .fr1 => 0x15

theorem regAddress_of_regAt {a : Nat} {r : Reg} (h : regAt a = some r) : regAddress r = a := by
  unfold regAt at h
  split at h <;> cases h <;> rfl

/-- The locations that the address map names (R61), each with its address. -/
inductive Mapped : Location → Nat → Prop
  | reg (r : Reg) : Mapped (.reg r) (regAddress r)
  | xWindow (k : Nat) : Mapped (.xWindow k) (0x08000 + k)
  | y (k : Nat) : Mapped (.mem .y k) (0x0C000 + k)
  | s (k : Nat) : Mapped (.mem .s k) (0x10000 + k)
  | w (k : Nat) : Mapped (.mem .w k) (0x12000 + k)
  | om (k : Nat) : Mapped (.mem .om k) (0x14000 + k)
  | freq (k : Nat) : Mapped (.freq k) (0x15000 + k)

theorem mapped_of_locate {a : Addr} {l : Location} (h : locate a = some l) : Mapped l a.toNat := by
  have at_base {l : Location} {base : Nat} (m : Mapped l (base + (a.toNat - base))) (hb : ¬ a.toNat < base) :
      Mapped l a.toNat := by
    rwa [Nat.add_sub_cancel' (Nat.not_lt.mp hb)] at m
  simp only [locate] at h
  split at h
  · rw [Option.map_eq_some_iff] at h
    obtain ⟨r, hr, rfl⟩ := h
    rw [← regAddress_of_regAt hr]
    exact .reg r
  · repeat' (split at h)
    all_goals cases h
    · exact at_base (.xWindow _) ‹_›
    · exact at_base (.y _) ‹_›
    · exact at_base (.s _) ‹_›
    · exact at_base (.w _) ‹_›
    · exact at_base (.om _) ‹_›
    · exact at_base (.freq _) ‹_›

/-- Each location has one address. -/
theorem Mapped.address_unique {l : Location} {a b : Nat} (ha : Mapped l a) (hb : Mapped l b) : a = b := by
  cases ha <;> cases hb <;> rfl

theorem locate_injective {a b : Addr} {l : Location} (ha : locate a = some l) (hb : locate b = some l) : a = b :=
  BitVec.eq_of_toNat_eq ((mapped_of_locate ha).address_unique (mapped_of_locate hb))

/-- The memory word that a location names: the `X` window follows `SEL` (R61). -/
def Location.cell (s : State) : Location → Option (MemName × Nat)
  | .reg _ | .freq _ => none
  | .xWindow k => some (s.working, k)
  | .mem n k => some (n, k)

/-- Neither working buffer has an address of its own: the host reaches one of them, through the `X` window (R34, R61). -/
theorem Mapped.not_buffer {n : MemName} {k a : Nat} (h : Mapped (.mem n k) a) (s : State) :
    n ≠ s.working ∧ n ≠ s.other := by
  obtain ⟨hxa, hxb⟩ : n ≠ .xa ∧ n ≠ .xb := by cases h <;> decide
  unfold State.working State.other
  split
  · exact ⟨hxb, hxa⟩
  · exact ⟨hxa, hxb⟩

theorem Mapped.cell_ne_other {s : State} {l : Location} {a k : Nat} {n : MemName} (h : Mapped l a)
    (hc : l.cell s = some (n, k)) : n ≠ s.other := by
  cases l with
  | reg r => cases hc
  | xWindow k => cases hc; exact (other_ne_working s).symm
  | mem n k => cases hc; exact (h.not_buffer s).2
  | freq k => cases hc

/-- Two locations of the map that name one memory word are the same. -/
theorem Mapped.cell_injective {s : State} {l l' : Location} {a b : Nat} {c : MemName × Nat} (h : Mapped l a)
    (h' : Mapped l' b) (hc : l.cell s = some c) (hc' : l'.cell s = some c) : l = l' := by
  cases l with
  | reg r => cases hc
  | freq k => cases hc
  | xWindow k =>
    cases hc
    cases l' <;> cases hc'
    · rfl
    · exact absurd rfl (h'.not_buffer s).1
  | mem n k =>
    cases hc
    cases l' <;> cases hc'
    · exact absurd rfl (h.not_buffer s).1
    · rfl

/-! ### Register writes -/

/-- A register write leaves every other register as it was. -/
theorem readReg_writeReg {s t : State} {r : Reg} {v : Word} (h : writeReg s r v = some t) (r' : Reg) :
    readReg t r' = if r' = r then readReg t r else readReg s r' := by
  cases r <;> cases h <;> cases r' <;> rfl

/-- A register keeps the low bits of what is written to it (R22). -/
theorem readReg_writeReg_same {s t : State} {r : Reg} {v : Word} (h : writeReg s r v = some t) :
    (readReg t r).toNat = v.toNat % 2 ^ Claims.regWidth r := by
  cases r <;> cases h <;> simp [readReg, Claims.regWidth] <;> omega

/-- What no register write touches. -/
theorem writeReg_keeps {s t : State} {r : Reg} {v : Word} (h : writeReg s r v = some t) :
    t.sel = s.sel ∧ t.port = s.port ∧ t.freeCount = s.freeCount ∧ t.resets = s.resets ∧ t.memOF = s.memOF ∧
      ∀ n, t.mem n = s.mem n := by
  cases r <;> cases h <;> exact ⟨rfl, rfl, rfl, rfl, rfl, fun _ => rfl⟩

@[simp] theorem readReg_setMem (s : State) (n : MemName) (m : Memory Word) (r : Reg) :
    readReg (s.setMem n m) r = readReg s r := by
  cases r <;> simp [readReg, statusWord]

@[simp] theorem readReg_setWord (s : State) (n : MemName) (k : Nat) (v : Word) (r : Reg) :
    readReg (s.setWord n k v) r = readReg s r := readReg_setMem s n _ r

@[simp] theorem working_setMem (s : State) (n : MemName) (m : Memory Word) : (s.setMem n m).working = s.working := by
  simp [State.working]

@[simp] theorem working_setWord (s : State) (n : MemName) (k : Nat) (v : Word) : (s.setWord n k v).working = s.working :=
  working_setMem s n _

/-! ### Host writes -/

/-- All that a write of a location can do: write a register, or the memory word that the location names. -/
theorem writeLocation_cases {s t : State} {l : Location} {v : Word} (h : writeLocation s l v = some t) :
    (∃ r, l = .reg r ∧ writeReg s r v = some t) ∨ ∃ n k, l.cell s = some (n, k) ∧ t = s.setWord n k v := by
  cases l with
  | reg r => exact .inl ⟨r, rfl, h⟩
  | xWindow k => exact .inr ⟨_, k, rfl, (Option.some.inj h).symm⟩
  | mem n k => cases n <;> cases h <;> exact .inr ⟨_, k, rfl, rfl⟩
  | freq k => cases h

/-- Away from `CMD`, a host write is the write of its location. -/
theorem writeLocation_of_hostWrite {s t : State} {a : Addr} {l : Location} {v : Word} (ha : a ≠ 0)
    (hl : locate a = some l) (h : hostWrite a v s = .next t) : writeLocation s l v = some t := by
  have hcmd : l ≠ .reg .cmd := fun e => ha ((locate_eq_cmd a).mp (e ▸ hl))
  unfold hostWrite at h
  rw [hl] at h
  split at h
  · cases ‹some l = none›
  · cases ‹some l = some (.reg .cmd)›
    exact absurd rfl hcmd
  · next heq =>
    cases heq
    split at h
    · cases h
    · cases h
      assumption

/-- No register write changes a memory word, an entry of `OF`, or which buffer is the working one. -/
theorem readLocation_writeReg {s t : State} {r : Reg} {v : Word} (h : writeReg s r v = some t) {l : Location}
    (hl : l ≠ .reg r) : readLocation t l = readLocation s l := by
  obtain ⟨hsel, -, -, hresets, hof, hmem⟩ := writeReg_keeps h
  cases l with
  | reg r' =>
    have hne : r' ≠ r := fun e => hl (e ▸ rfl)
    exact (readReg_writeReg h r').trans (if_neg hne)
  | xWindow k => simp [readLocation, State.word, State.working, hsel, hresets, hmem]
  | mem n k => simp [readLocation, State.word, hresets, hmem]
  | freq k => simp [readLocation, State.freq, hresets, hof]

theorem readLocation_setWord_same {s : State} {l : Location} {n : MemName} {k : Nat} (hc : l.cell s = some (n, k))
    (v : Word) : readLocation (s.setWord n k v) l = v := by
  cases l <;> cases hc <;> simp [readLocation, word_setWord]

theorem readLocation_setWord_ne {s : State} {l : Location} {n : MemName} {k : Nat} (hc : l.cell s ≠ some (n, k))
    (v : Word) : readLocation (s.setWord n k v) l = readLocation s l := by
  cases l with
  | reg r => exact readReg_setWord s n k v r
  | xWindow j =>
    have hne : ¬ (s.working = n ∧ j = k) := fun ⟨hn, hk⟩ => hc (by rw [Location.cell, hn, hk])
    simp only [readLocation, working_setWord, word_setWord, if_neg hne]
  | mem m j =>
    have hne : ¬ (m = n ∧ j = k) := fun ⟨hn, hk⟩ => hc (by rw [Location.cell, hn, hk])
    simp only [readLocation, word_setWord, if_neg hne]
  | freq j => exact congrArg (BitVec.setWidth 64) (freq_setMem s n _ j)

/-- What a host write other than of `CMD` keeps beside the other locations. -/
theorem writeLocation_keeps {s t : State} {l : Location} {v : Word} (h : writeLocation s l v = some t) :
    t.sel = s.sel ∧ t.port = s.port ∧ t.freeCount = s.freeCount ∧ t.resets = s.resets := by
  obtain ⟨r, -, hr⟩ | ⟨n, k, -, rfl⟩ := writeLocation_cases h
  · obtain ⟨hsel, hport, hfree, hresets, -, -⟩ := writeReg_keeps hr
    exact ⟨hsel, hport, hfree, hresets⟩
  · simp

theorem readLocation_writeLocation_same {s t : State} {l : Location} {v : Word} (h : writeLocation s l v = some t) :
    (readLocation t l).toNat = v.toNat % 2 ^ Claims.widthOf l := by
  obtain ⟨r, rfl, hr⟩ | ⟨n, k, hc, rfl⟩ := writeLocation_cases h
  · exact readReg_writeReg_same hr
  · have hw : Claims.widthOf l = 64 := by cases l <;> cases hc <;> rfl
    rw [readLocation_setWord_same hc, hw, Nat.mod_eq_of_lt v.isLt]

theorem readLocation_writeLocation_ne {s t : State} {l l' : Location} {v : Word} {a b : Nat}
    (h : writeLocation s l v = some t) (hl : Mapped l a) (hl' : Mapped l' b) (hne : l' ≠ l) :
    readLocation t l' = readLocation s l' := by
  obtain ⟨r, rfl, hr⟩ | ⟨n, k, hc, rfl⟩ := writeLocation_cases h
  · exact readLocation_writeReg hr hne
  · exact readLocation_setWord_ne (fun hc' => hne (hl'.cell_injective hl hc' hc)) v

/-- No location of the map reads the other buffer (R34). -/
theorem readLocation_setMem_other (s : State) (m : Memory Word) {l : Location} {a : Nat} (hl : Mapped l a) :
    readLocation (s.setMem s.other m) l = readLocation s l := by
  cases l with
  | reg r => exact readReg_setMem s _ m r
  | xWindow k => simp [readLocation, State.word, (other_ne_working s).symm]
  | mem n k => simp [readLocation, State.word, (hl.not_buffer s).2]
  | freq k => simp [readLocation]

/-- No write of a location of the map changes the other buffer (R34). -/
theorem mem_other_writeLocation {s t : State} {l : Location} {v : Word} {a : Nat} (h : writeLocation s l v = some t)
    (hl : Mapped l a) : t.mem s.other = s.mem s.other := by
  obtain ⟨r, -, hr⟩ | ⟨n, k, hc, rfl⟩ := writeLocation_cases h
  · obtain ⟨-, -, -, -, -, hmem⟩ := writeReg_keeps hr
    exact hmem _
  · simp [State.setWord, (hl.cell_ne_other hc).symm]

/-! ### `STATUS` -/

/-- The code is the low 4 bits of `STATUS` (R25). -/
theorem statusWord_code (s : State) : (statusWord s).toNat % 16 = (errCode s.err).toNat := by
  have hlow : (statusWord s).setWidth 4 = errCode s.err := BitVec.setWidth_append_eq_right
  rw [← hlow, BitVec.toNat_setWidth]

/-- `STATUS` above the code: `SEL`, then zeros (R25). -/
theorem getLsbD_statusWord (s : State) (i : Nat) : (statusWord s).getLsbD (4 + i) = (decide (i = 0) && s.sel) := by
  rw [statusWord, BitVec.getLsbD_append, if_neg (by omega), Nat.add_sub_cancel_left, BitVec.getLsbD_append]
  cases i with
  | zero => rw [if_pos (by decide), BitVec.getLsbD_ofBool]
  | succ i => rw [if_neg (by omega)]; simp

/-! ### Obligations -/

/-- Settles O12: the write is `writeLocation`, and by the address map another address is another location. -/
theorem hostWriteThenRead : Obligations.HostWriteThenRead := by
  intro s t a v l ha hl hstep
  have hw : writeLocation s l v = some t := writeLocation_of_hostWrite ha hl hstep
  obtain ⟨-, hport, hfree, hresets⟩ := writeLocation_keeps hw
  refine ⟨readLocation_writeLocation_same hw, fun b l' hb hl' => ?_, hport, hfree, hresets⟩
  have hne : l' ≠ l := fun e => hb (locate_injective (e ▸ hl') hl)
  exact readLocation_writeLocation_ne hw (mapped_of_locate hl) (mapped_of_locate hl') hne

/-- Settles O14: the map names no location in the other buffer, and a host write keeps `SEL`. -/
theorem otherBufferHiddenFromHost : Obligations.OtherBufferHiddenFromHost := by
  intro s m a
  refine ⟨fun l hl => readLocation_setMem_other s m (mapped_of_locate hl), fun ha v t hstep => ?_⟩
  obtain ⟨l, hl⟩ : ∃ l, locate a = some l := by
    cases hl : locate a with
    | none => simp [doAction, hostWrite, hl] at hstep
    | some l => exact ⟨l, rfl⟩
  have hw : writeLocation s l v = some t := writeLocation_of_hostWrite ha hl hstep
  obtain ⟨hsel, -⟩ := writeLocation_keeps hw
  exact ⟨by rw [State.other, State.other, hsel], mem_other_writeLocation hw (mapped_of_locate hl)⟩

/-- Settles O15, from the layout of `STATUS`. -/
theorem statusWordFields : Obligations.StatusWordFields := by
  refine ⟨⟨rfl, rfl, rfl, rfl, rfl⟩, fun s => ⟨statusWord_code s, getLsbD_statusWord s 0, fun i hi => ?_⟩⟩
  obtain ⟨j, rfl⟩ : ∃ j, i = 4 + (j + 1) := ⟨i - 5, by omega⟩
  simp [getLsbD_statusWord]

end Sys2Proof.Machine
end

section
/-! What a command can do, said once for every command; which parts of the state it may write (10_state.md R24, R36). -/

namespace Sys2Proof.Machine

/-! ### A command is its checks and its effect -/

/-- The error that the checks of a command report, if any (R98). -/
def failedCheck (i : Instr) (s : State) : Option Err :=
  match i with
  | .nop | .sin | .cos | .cmul | .brev | .resolve | .asblock => none
  | .brevn => checkBrevn s
  | .twld => thenCheck (checkLength s) (checkTwiddleIndex s)
  | .stage a => thenCheck (checkLength s) (checkStage a s)
  | .reorder | .fft | .revcopy | .scale | .ifft | .lift | .mag => checkLength s
  | .cmulv | .xchg | .conv => checkTwoSequences s
  | .wapply => checkWindowed s
  | .wgen a => match windowKind a with
    | none => some .illegal
    | some _ => checkWindowLength s
  | .analyze a => match a.toNat with
    | 0 => checkLength s
    | 1 => checkWindowed s
    | _ => some .illegal

/-- What a command does when no check fails, but for `ERR` (R14). -/
def effectOf : Instr → State → State
  | .nop => id
  | .sin => sinEffect
  | .cos => cosEffect
  | .cmul => cmulEffect
  | .brev => brevEffect
  | .brevn => brevnEffect
  | .reorder => reorderEffect
  | .twld => twldEffect
  | .stage a => stageEffect a.toNat
  | .fft => fftEffect
  | .revcopy => revcopyEffect
  | .scale => scaleEffect
  | .ifft => ifftEffect
  | .cmulv => cmulvEffect
  | .xchg => xchgEffect
  | .conv => convEffect
  | .wgen a => match windowKind a with
    | none => id
    | some kind => wgenEffect kind
  | .wapply => wapplyEffect
  | .resolve => resolveEffect
  | .asblock => asblockEffect
  | .lift => liftEffect
  | .mag => magEffect
  | .analyze a => match a.toNat with
    | 0 => analyzeEffect false
    | 1 => analyzeEffect true
    | _ => id

theorem exec_eq_perform (i : Instr) (s : State) : exec i s = perform (failedCheck i s) (effectOf i) s := by
  cases i with
  | wgen a =>
    simp only [exec, execWgen, failedCheck, effectOf]
    cases windowKind a <;> rfl
  | analyze a =>
    simp only [exec, execAnalyze, failedCheck, effectOf]
    rcases a.toNat with _ | _ | n <;> rfl
  | _ => rfl

/-- All that a command can do: raise the error of its first failing check, or have its effect with `ERR` cleared. -/
theorem exec_cases {i : Instr} {s t : State} (h : exec i s = .next t) :
    (∃ e, failedCheck i s = some e ∧ t = raise e s) ∨ (failedCheck i s = none ∧ t = succeed (effectOf i s)) :=
  perform_cases (exec_eq_perform i s ▸ h)

/-- A well-formed command that uses N checks the length first (R98, R302). -/
theorem failedCheck_of_not_validLen {i : Instr} {s : State} (hi : i.wellFormed) (hu : Claims.usesLength i = true)
    (hl : s.validLen = false) : failedCheck i s = some .length := by
  have hc : checkLength s = some .length := by simp [checkLength, hl]
  cases i with
  | analyze a =>
    have ha : a.toNat ≤ 1 := by
      by_contra hgt
      simp [Instr.wellFormed, Instr.illFormed, hgt] at hi
    simp only [failedCheck, checkWindowed, hc, thenCheck_some]
    generalize a.toNat = n at ha
    match n, ha with
    | 0, _ => rfl
    | 1, _ => rfl
  | _ => simp_all [failedCheck, checkTwoSequences, checkWindowed, Claims.usesLength]

/-! ### The parts of the state that a command may write -/

/-- The parts of the state for which R24 and R36 name the commands that write them. `STATUS` is not among them: every command
writes it. -/
inductive Part where
  /-- the operand registers, `CMD`, and the model's own fields but the counter of free values -/
  | operands
  | freeCount
  | wlen
  | olen
  | res
  | fr0
  | fr1
  | mem (n : MemName)
  | freqs

/-- A part is the same in two states. -/
def Part.Same (s t : State) : Part → Prop
  | .operands => t.cmd = s.cmd ∧ t.log2n = s.log2n ∧ t.ylog2n = s.ylog2n ∧ t.srate = s.srate ∧ t.arg0 = s.arg0 ∧
      t.arg1 = s.arg1 ∧ t.fa0 = s.fa0 ∧ t.fa1 = s.fa1 ∧ t.fb0 = s.fb0 ∧ t.fb1 = s.fb1 ∧ t.resets = s.resets ∧
      t.port = s.port
  | .freeCount => t.freeCount = s.freeCount
  | .wlen => t.wlen = s.wlen
  | .olen => t.olen = s.olen
  | .res => t.res = s.res
  | .fr0 => t.fr0 = s.fr0
  | .fr1 => t.fr1 = s.fr1
  | .mem n => t.mem n = s.mem n
  | .freqs => t.memOF = s.memOF

theorem Part.Same.refl (s : State) (p : Part) : p.Same s s := by cases p <;> simp [Part.Same]

theorem Part.Same.trans {s t u : State} {p : Part} (h : p.Same s t) (h' : p.Same t u) : p.Same s u := by
  cases p with
  | operands => simp_all [Part.Same]
  | _ => exact Eq.trans h' h

/-- At most the parts `ps` (and `STATUS`) differ. -/
def WritesOnly (ps : List Part) (s t : State) : Prop := ∀ p, p ∉ ps → p.Same s t

theorem WritesOnly.refl (ps : List Part) (s : State) : WritesOnly ps s s := fun p _ => Part.Same.refl s p

theorem WritesOnly.trans {ps : List Part} {s t u : State} (h : WritesOnly ps s t) (h' : WritesOnly ps t u) :
    WritesOnly ps s u := fun p hp => (h p hp).trans (h' p hp)

theorem WritesOnly.mono {ps qs : List Part} {s t : State} (h : WritesOnly ps s t) (hs : ps ⊆ qs) : WritesOnly qs s t :=
  fun p hp => h p fun hm => hp (hs hm)

theorem writesOnly_raise (e : Err) (s : State) : WritesOnly [] s (raise e s) := by
  intro p _
  cases p <;> simp [Part.Same]

theorem writesOnly_succeed (s : State) : WritesOnly [] s (succeed s) := by
  intro p _
  cases p <;> simp [Part.Same]

theorem writesOnly_putEntries (s : State) (m : MemName) (n : Nat) (f : Nat → C64) :
    WritesOnly [.mem m] s (s.putEntries m n f) := by
  intro p hp
  cases p <;> simp_all [Part.Same, State.putEntries]

theorem writesOnly_putWords (s : State) (m : MemName) (n : Nat) (f : Nat → F64) :
    WritesOnly [.mem m] s (s.putWords m n f) := by
  intro p hp
  cases p <;> simp_all [Part.Same, State.putWords]

theorem writesOnly_putFreqs (s : State) (n : Nat) (f : Nat → U32) : WritesOnly [.freqs] s (s.putFreqs n f) := by
  intro p hp
  cases p <;> simp_all [Part.Same]

theorem writesOnly_setResult (s : State) (c : C64) : WritesOnly [.fr0, .fr1] s (s.setResult c) := by
  intro p hp
  cases p <;> simp_all [Part.Same]

theorem writesOnly_setWlen (s : State) (v : BitVec 14) : WritesOnly [.wlen] s { s with wlen := v } := by
  intro p hp
  cases p with
  | wlen => simp at hp
  | operands => simp [Part.Same]
  | _ => rfl

theorem writesOnly_setOlen (s : State) (v : BitVec 12) : WritesOnly [.olen] s { s with olen := v } := by
  intro p hp
  cases p with
  | olen => simp at hp
  | operands => simp [Part.Same]
  | _ => rfl

theorem writesOnly_setRes (s : State) (v : U32) : WritesOnly [.res] s { s with res := v } := by
  intro p hp
  cases p with
  | res => simp at hp
  | operands => simp [Part.Same]
  | _ => rfl

theorem writesOnly_setFr0 (s : State) (v : F64) : WritesOnly [.fr0] s { s with fr0 := v } := by
  intro p hp
  cases p with
  | fr0 => simp at hp
  | operands => simp [Part.Same]
  | _ => rfl

theorem writesOnly_takeFree (s : State) : WritesOnly [.freeCount] s s.takeFree.2 := by
  intro p hp
  cases p with
  | freeCount => simp at hp
  | operands => simp [Part.Same, State.takeFree]
  | _ => rfl

/-- The two working buffers (R33). -/
abbrev bufferParts : List Part := [.mem .xa, .mem .xb]

theorem working_mem_bufferParts (s : State) : Part.mem s.working ∈ bufferParts := by
  unfold State.working
  split <;> simp

theorem other_mem_bufferParts (s : State) : Part.mem s.other ∈ bufferParts := by
  unfold State.other
  split <;> simp

theorem writesOnly_putWorking (s : State) (n : Nat) (f : Nat → C64) :
    WritesOnly bufferParts s (s.putEntries s.working n f) :=
  (writesOnly_putEntries s _ n f).mono (by simpa using working_mem_bufferParts s)

theorem writesOnly_produce (s : State) (w : Memory Word → Memory Word) : WritesOnly bufferParts s (s.produce w) := by
  intro p hp
  cases p with
  | mem n =>
    have hn : n ≠ s.other := fun e => hp (e ▸ other_mem_bufferParts s)
    simp [Part.Same, hn]
  | _ => simp [Part.Same]

theorem writesOnly_fft (s : State) : WritesOnly bufferParts s (fftEffect s) :=
  loop_induction (fun _ t => WritesOnly bufferParts s t) (writesOnly_produce s _)
    fun _ _ t h => h.trans (writesOnly_produce t _)

theorem writesOnly_scale (s : State) : WritesOnly bufferParts s (scaleEffect s) := writesOnly_putWorking s _ _

theorem writesOnly_ifft (s : State) : WritesOnly bufferParts s (ifftEffect s) :=
  ((writesOnly_produce s _).trans (writesOnly_fft _)).trans (writesOnly_scale _)

theorem writesOnly_cmulv (s : State) : WritesOnly bufferParts s (cmulvEffect s) := writesOnly_putWorking s _ _

theorem writesOnly_xchg (s : State) : WritesOnly (.mem .y :: bufferParts) s (xchgEffect s) :=
  ((writesOnly_putWorking s _ _).mono (by simp)).trans ((writesOnly_putEntries _ _ _ _).mono (by simp))

theorem writesOnly_conv (s : State) : WritesOnly (.mem .y :: bufferParts) s (convEffect s) := by
  have before : WritesOnly (.mem .y :: bufferParts) s (xchgEffect (fftEffect s)) :=
    ((writesOnly_fft s).mono (by simp)).trans (writesOnly_xchg _)
  have after : WritesOnly bufferParts (xchgEffect (fftEffect s)) (convEffect s) :=
    ((writesOnly_fft _).trans (writesOnly_cmulv _)).trans (writesOnly_ifft _)
  exact before.trans (after.mono (by simp))

theorem writesOnly_wapply (s : State) : WritesOnly [.mem .s] s (wapplyEffect s) := writesOnly_putWords s _ _ _

theorem writesOnly_wgen (kind : WindowKind) (s : State) : WritesOnly [.wlen, .mem .w] s (wgenEffect kind s) :=
  ((writesOnly_putWords s _ _ _).mono (by simp)).trans ((writesOnly_setWlen _ _).mono (by simp))

/-- What `MAG` writes (R272). -/
abbrev spectrumParts : List Part := [.olen, .mem .om, .freqs]

theorem writesOnly_mag (s : State) : WritesOnly spectrumParts s (magEffect s) :=
  (((writesOnly_putWords s _ _ _).mono (by simp)).trans ((writesOnly_putFreqs _ _ _).mono (by simp))).trans
    ((writesOnly_setOlen _ _).mono (by simp))

theorem writesOnly_analyze (windowed : Bool) (s : State) :
    WritesOnly (.mem .s :: (bufferParts ++ spectrumParts)) s (analyzeEffect windowed s) := by
  have window : WritesOnly [.mem .s] s (if windowed then wapplyEffect s else s) := by
    split
    · exact writesOnly_wapply s
    · exact .refl _ s
  have transform := (writesOnly_putWorking _ _ _).trans (writesOnly_fft (liftEffect (if windowed then wapplyEffect s else s)))
  exact ((window.mono (by simp)).trans (transform.mono (by simp))).trans ((writesOnly_mag _).mono (by simp))

theorem writesOnly_sin (s : State) : WritesOnly [.freeCount, .fr0] s (sinEffect s) := by
  unfold sinEffect
  split
  · exact (writesOnly_setFr0 s _).mono (by simp)
  · exact ((writesOnly_takeFree s).mono (by simp)).trans ((writesOnly_setFr0 _ _).mono (by simp))

theorem writesOnly_cos (s : State) : WritesOnly [.freeCount, .fr0] s (cosEffect s) := by
  unfold cosEffect
  split
  · exact (writesOnly_setFr0 s _).mono (by simp)
  · exact ((writesOnly_takeFree s).mono (by simp)).trans ((writesOnly_setFr0 _ _).mono (by simp))

/-- The commands that R24 and R36 name as the writers of each part. -/
def Part.Writer (i : Instr) : Part → Prop
  | .operands => False
  | .freeCount => i ∈ [.sin, .cos]
  | .wlen => ∃ a, i = .wgen a
  | .olen => i = .mag ∨ ∃ a, i = .analyze a
  | .res => i ∈ [.brev, .brevn, .resolve, .asblock]
  | .fr0 => i ∈ [.sin, .cos, .cmul, .twld]
  | .fr1 => i ∈ [.cmul, .twld]
  | .mem .xa | .mem .xb => i ∈ [.reorder, .fft, .revcopy, .scale, .ifft, .cmulv, .xchg, .conv, .lift] ∨
      ∃ a, i = .stage a ∨ i = .analyze a
  | .mem .y => i ∈ [.xchg, .conv]
  | .mem .s => i = .wapply ∨ ∃ a, i = .analyze a
  | .mem .w => ∃ a, i = .wgen a
  | .mem .om | .freqs => i = .mag ∨ ∃ a, i = .analyze a

/-- An effect that writes only the parts `ps` writes only what its command is named for, if it is named for all of `ps`. -/
theorem WritesOnly.same_of_not_writer {ps : List Part} {s t : State} {i : Instr} {p : Part} (h : WritesOnly ps s t)
    (hp : ¬ p.Writer i) (hps : ∀ q ∈ ps, q.Writer i := by simp [Part.Writer]) : p.Same s t := h p fun hm => hp (hps p hm)

theorem effectOf_same (i : Instr) (s : State) (p : Part) (hp : ¬ p.Writer i) : p.Same s (effectOf i s) := by
  cases i with
  | nop => exact .refl s p
  | sin => exact (writesOnly_sin s).same_of_not_writer hp
  | cos => exact (writesOnly_cos s).same_of_not_writer hp
  | cmul | twld => exact (writesOnly_setResult s _).same_of_not_writer hp
  | brev | brevn | resolve | asblock => exact (writesOnly_setRes s _).same_of_not_writer hp
  | reorder | stage | revcopy => exact (writesOnly_produce s _).same_of_not_writer hp
  | scale | cmulv | lift => exact (writesOnly_putWorking s _ _).same_of_not_writer hp
  | fft => exact (writesOnly_fft s).same_of_not_writer hp
  | ifft => exact (writesOnly_ifft s).same_of_not_writer hp
  | xchg => exact (writesOnly_xchg s).same_of_not_writer hp
  | conv => exact (writesOnly_conv s).same_of_not_writer hp
  | wapply => exact (writesOnly_wapply s).same_of_not_writer hp
  | mag => exact (writesOnly_mag s).same_of_not_writer hp
  | wgen a =>
    simp only [effectOf]
    cases windowKind a with
    | none => exact .refl s p
    | some kind => exact (writesOnly_wgen kind s).same_of_not_writer hp
  | analyze a =>
    simp only [effectOf]
    rcases a.toNat with _ | _ | n
    · exact (writesOnly_analyze false s).same_of_not_writer hp
    · exact (writesOnly_analyze true s).same_of_not_writer hp
    · exact .refl s p

/-- R24, R36: every command leaves the parts that it is not named as a writer of. -/
theorem exec_same_or_writer {i : Instr} {s t : State} (h : exec i s = .next t) (p : Part) : p.Same s t ∨ p.Writer i := by
  by_cases hp : p.Writer i
  · exact .inr hp
  · left
    obtain ⟨e, -, rfl⟩ | ⟨-, rfl⟩ := exec_cases h
    · exact writesOnly_raise e s p (by simp)
    · exact (effectOf_same i s p hp).trans (writesOnly_succeed _ p (by simp))

/-! ### Obligations -/

/-- Settles O18: every part is the same or has the command among its writers. -/
theorem onlyNamedCommandsWrite : Obligations.OnlyNamedCommandsWrite := by
  intro i s t h
  have hp := exec_same_or_writer h
  refine ⟨(hp .operands).resolve_right id, hp .freeCount, hp .wlen, hp .olen, hp .res, hp .fr0, hp .fr1, hp (.mem .y),
    hp (.mem .s), hp (.mem .w), ?_, ?_⟩
  · exact and_or_right.mpr ⟨hp (.mem .om), hp .freqs⟩
  · exact and_or_right.mpr ⟨hp (.mem .xa), hp (.mem .xb)⟩

/-- Settles O5: with every register zero the length check fails. -/
theorem resetRegistersZeroAndLengthUnset : Obligations.ResetRegistersZeroAndLengthUnset := by
  refine ⟨fun r => by cases r <;> rfl, fun i hi hu => ?_⟩
  rw [exec_eq_perform, failedCheck_of_not_validLen hi hu rfl, perform_some, raise]

/-- Settles O6: after reset no word is written and `OLEN` is 0. -/
theorem resetMeetsInvariant : Obligations.ResetMeetsInvariant := ⟨by decide, by decide⟩

end Sys2Proof.Machine
end

section
/-! That no command touches the entries from `N` on (10_state.md R34). -/

namespace Sys2Proof.Machine

/-- The length is the same, and so are the entries from `N` on of both working buffers (R34). -/
def TailKept (s t : State) : Prop :=
  t.len = s.len ∧ ∀ k, 2 * s.len ≤ k → t.word .xa k = s.word .xa k ∧ t.word .xb k = s.word .xb k

theorem TailKept.refl (s : State) : TailKept s s := ⟨rfl, fun _ _ => ⟨rfl, rfl⟩⟩

theorem TailKept.trans {s t u : State} (h : TailKept s t) (h' : TailKept t u) : TailKept s u := by
  obtain ⟨hlen, hword⟩ := h
  obtain ⟨hlen', hword'⟩ := h'
  refine ⟨hlen'.trans hlen, fun k hk => ?_⟩
  obtain ⟨ha, hb⟩ := hword k hk
  obtain ⟨ha', hb'⟩ := hword' k (hlen ▸ hk)
  exact ⟨ha'.trans ha, hb'.trans hb⟩

/-- The tail depends on `LOG2N`, the count of resets and the two working buffers alone. -/
theorem tailKept_of_same {s t : State} (ho : Part.operands.Same s t) (ha : (Part.mem .xa).Same s t)
    (hb : (Part.mem .xb).Same s t) : TailKept s t := by
  simp only [Part.Same] at ho ha hb
  obtain ⟨-, hlog, -, -, -, -, -, -, -, -, hresets, -⟩ := ho
  refine ⟨by rw [State.len, State.len, hlog], fun k _ => ⟨?_, ?_⟩⟩
  · rw [State.word, State.word, ha, hresets]
  · rw [State.word, State.word, hb, hresets]

theorem WritesOnly.tailKept {ps : List Part} {s t : State} (h : WritesOnly ps s t) (ho : Part.operands ∉ ps)
    (ha : Part.mem .xa ∉ ps) (hb : Part.mem .xb ∉ ps) : TailKept s t :=
  tailKept_of_same (h _ ho) (h _ ha) (h _ hb)

/-- Only the words below `2N` of a memory are written in place (R34). -/
theorem tailKept_putEntries (s : State) (m : MemName) (f : Nat → C64) : TailKept s (s.putEntries m s.len f) := by
  refine ⟨len_putEntries s m s.len f, fun k hk => ?_⟩
  have hk' : ¬ k < 2 * s.len := by omega
  simp [word_putEntries, hk']

/-- A command that produces a sequence keeps the tail if its write of the other buffer does. -/
theorem tailKept_produce (s : State) (w : Memory Word → Memory Word)
    (hw : ∀ m k, s.len ≤ k / 2 → (w m).lookup k = m.lookup k) : TailKept s (s.produce w) := by
  refine ⟨len_produce s w, fun k hk => ?_⟩
  have same_word (n : MemName) : (s.produce w).word n k = s.word n k := by
    rw [word_produce, hw _ k (by omega)]
    split
    · next h => rw [h]; rfl
    · rfl
  exact ⟨same_word .xa, same_word .xb⟩

theorem tailKept_reorder (s : State) : TailKept s (reorderEffect s) :=
  tailKept_produce s _ fun m k hk => lookup_loop_storeC_miss _ m fun i _ => by
    have := brevn_lt i s.log2n.toNat
    rw [State.len] at hk
    omega

theorem tailKept_revcopy (s : State) : TailKept s (revcopyEffect s) :=
  tailKept_produce s _ fun m k hk => lookup_loop_storeC_miss _ m fun i _ => by omega

/-- The blocks of a stage lie below `N` (R204). -/
theorem tailKept_stage {a : Nat} (ha : a ≠ 0) (s : State) : TailKept s (stageEffect a s) := by
  refine tailKept_produce s _ fun m k hk => ?_
  have hblocks : s.len / 2 ^ a * 2 ^ a ≤ s.len := Nat.div_mul_le_self _ _
  obtain ⟨b, rfl⟩ := Nat.exists_eq_succ_of_ne_zero ha
  have hsize : 2 ^ b.succ = 2 * 2 ^ b := by rw [Nat.pow_succ, Nat.mul_comm]
  have hhalf : 2 * 2 ^ b / 2 = 2 ^ b := Nat.mul_div_cancel_left _ (by decide)
  by_cases hb : 2 ^ b.succ = 2
  · simp only [hb, if_true] at hblocks ⊢
    rw [lookup_pairs, if_neg (by omega)]
  · simp only [hb, if_false]
    rw [hsize] at hblocks ⊢
    rw [hhalf, lookup_blocks _ _ _ _ (Nat.two_pow_pos b), if_neg (by omega)]

theorem tailKept_fft (s : State) : TailKept s (fftEffect s) :=
  loop_induction (fun _ t => TailKept s t) (tailKept_reorder s) fun i _ t h => h.trans (tailKept_stage (Nat.succ_ne_zero i) t)

theorem tailKept_ifft (s : State) : TailKept s (ifftEffect s) :=
  ((tailKept_revcopy s).trans (tailKept_fft _)).trans (tailKept_putEntries _ _ _)

theorem tailKept_xchg (s : State) : TailKept s (xchgEffect s) := by
  have h := tailKept_putEntries (s.putEntries s.working s.len s.yEntry) .y s.x
  rw [len_putEntries] at h
  exact (tailKept_putEntries s _ _).trans h

theorem tailKept_conv (s : State) : TailKept s (convEffect s) := by
  have before : TailKept s (xchgEffect (fftEffect s)) := (tailKept_fft s).trans (tailKept_xchg _)
  have after : TailKept (xchgEffect (fftEffect s)) (convEffect s) :=
    ((tailKept_fft _).trans (tailKept_putEntries _ _ _)).trans (tailKept_ifft _)
  exact before.trans after

theorem tailKept_analyze (windowed : Bool) (s : State) : TailKept s (analyzeEffect windowed s) := by
  have window : TailKept s (if windowed then wapplyEffect s else s) := by
    split
    · exact (writesOnly_wapply s).tailKept (by simp) (by simp) (by simp)
    · exact .refl s
  have transform := (tailKept_putEntries _ _ _).trans (tailKept_fft (liftEffect (if windowed then wapplyEffect s else s)))
  exact (window.trans transform).trans ((writesOnly_mag _).tailKept (by simp) (by simp) (by simp))

/-- The checks of `STAGE` exclude stage 0 (R303); for every other command no check is needed. -/
theorem tailKept_effectOf {i : Instr} {s : State} (h : failedCheck i s = none) : TailKept s (effectOf i s) := by
  have not_writer (ha : ¬ (Part.mem .xa).Writer i := by simp [Part.Writer])
      (hb : ¬ (Part.mem .xb).Writer i := by simp [Part.Writer]) : TailKept s (effectOf i s) :=
    tailKept_of_same (effectOf_same i s _ id) (effectOf_same i s _ ha) (effectOf_same i s _ hb)
  cases i with
  | stage a =>
    have ha : checkStage a s = none := ((thenCheck_eq_none _ _).mp h).2
    refine tailKept_stage (fun h0 => ?_) s
    simp [checkStage, h0] at ha
  | reorder => exact tailKept_reorder s
  | revcopy => exact tailKept_revcopy s
  | scale | cmulv | lift => exact tailKept_putEntries s _ _
  | fft => exact tailKept_fft s
  | ifft => exact tailKept_ifft s
  | xchg => exact tailKept_xchg s
  | conv => exact tailKept_conv s
  | analyze a =>
    simp only [effectOf]
    rcases a.toNat with _ | _ | n
    · exact tailKept_analyze false s
    · exact tailKept_analyze true s
    · exact .refl s
  | _ => exact not_writer

/-- Settles O19: a failing command writes no word, and the effect of a succeeding one keeps the tail. -/
theorem entriesAboveNNeverWritten : Obligations.EntriesAboveNNeverWritten := by
  intro i s t h k hk
  obtain ⟨e, -, rfl⟩ | ⟨hc, rfl⟩ := exec_cases h
  · simp
  · simpa using (tailKept_effectOf hc).2 k hk

end Sys2Proof.Machine
end

section
/-! The windows of the host's address map and the accesses it refuses (20_memory.md R61 to R66). -/

namespace Sys2Proof.Machine

/-! ### The windows of the address map -/

/-- A location lies inside the memory that it names (R36, R61). -/
def Location.Inside : Location → Prop
  | .reg _ => True
  | .xWindow k => k < 2 * Config.nMax
  | .mem n k => k < Config.memWords n
  | .freq k => k < Config.outMax

theorem inside_of_locate {a : Addr} {l : Location} (h : locate a = some l) : l.Inside := by
  simp only [locate] at h
  split at h
  · obtain ⟨r, -, rfl⟩ := Option.map_eq_some_iff.mp h
    exact trivial
  · repeat' (split at h)
    all_goals cases h
    all_goals
      simp only [Location.Inside, Config.memWords, Config.nMax, Config.outMax]
      omega

/-- The address that the map gives a location names it. -/
theorem locate_of_mapped {l : Location} {a : Nat} (h : Mapped l a) (hin : l.Inside) :
    locate (Claims.addr a) = some l := by
  cases h with
  | reg r => cases r <;> rfl
  | _ k =>
    simp only [Location.Inside, Config.memWords, Config.nMax, Config.outMax] at hin
    simp only [locate, Claims.addr, BitVec.toNat_ofNat]
    rw [Nat.mod_eq_of_lt (by omega)]
    simp (disch := omega) only [if_neg, if_pos, Nat.add_sub_cancel_left]

theorem regAt_eq_none_iff (a : Nat) : regAt a = none ↔ a = 0x7 ∨ (0xB ≤ a ∧ a ≤ 0xF) ∨ 0x16 ≤ a := by
  unfold regAt
  split
  case h_17 =>
    simp only [imp_false] at *
    simp only [true_iff]
    omega
  all_goals decide

/-- Nothing is mapped at exactly the unmapped addresses (R24, R61). -/
theorem locate_eq_none_iff (a : Addr) : locate a = none ↔ Claims.Unmapped a.toNat := by
  simp only [locate, Claims.Unmapped]
  split
  · rw [Option.map_eq_none_iff, regAt_eq_none_iff]
    omega
  · repeat' split
    all_goals
      simp only [reduceCtorEq, true_iff, false_iff]
      omega

/-- The map gives exactly the read-only addresses to the locations that take no write (R24, R61, R66). -/
theorem Mapped.writeLocation_eq_none_iff {l : Location} {a : Nat} (h : Mapped l a) (hin : l.Inside) (s : State) (v : Word) :
    writeLocation s l v = none ↔ Claims.ReadOnly a := by
  cases h with
  | reg r => cases r <;> simp [writeLocation, writeReg, regAddress, Claims.ReadOnly]
  | _ k =>
    simp only [Location.Inside, Config.memWords, Config.nMax, Config.outMax] at hin
    simp only [writeLocation, Claims.ReadOnly, reduceCtorEq, true_iff, false_iff]
    omega

/-! ### What the port answers -/

theorem hostRead_of_locate {a : Addr} {l : Location} (h : locate a = some l) (s : State) :
    hostRead a s = .next { s with port := { s.port with returned := s.port.returned ++ [readLocation s l] } } := by
  simp [hostRead, h]

/-- The word at a mapped address is what a read of it returns (R63). -/
theorem reads_of_mapped {l : Location} {a : Nat} (h : Mapped l a) (s : State) (hin : l.Inside := by exact trivial) :
    Claims.Reads s a (readLocation s l) := hostRead_of_locate (locate_of_mapped h hin) s

theorem runCommand_next (c : BitVec 32) (s : State) : ∃ t, runCommand c s = .next t := by
  unfold runCommand
  split
  · rw [exec_eq_perform]
    exact perform_next _ _ _
  · exact perform_next _ _ _

theorem hostWrite_of_readOnly {a : Addr} {l : Location} {v : Word} {s : State} (hl : locate a = some l)
    (hw : writeLocation s l v = none) : hostWrite a v s = .refused (.busErrorReadOnly a) := by
  unfold hostWrite
  rw [hl]
  split
  · cases ‹some l = none›
  · cases ‹some l = some (.reg .cmd)›
    cases hw
  · next heq => cases heq; rw [hw]

theorem hostWrite_next_of_writable {a : Addr} {l : Location} {v : Word} {s : State} (hl : locate a = some l)
    (hw : writeLocation s l v ≠ none) : ∃ t, hostWrite a v s = .next t := by
  unfold hostWrite
  rw [hl]
  split
  · cases ‹some l = none›
  · exact runCommand_next _ s
  · next heq =>
    cases heq
    obtain ⟨t, ht⟩ := Option.ne_none_iff_exists'.mp hw
    exact ⟨t, by rw [ht]⟩

/-! ### Obligations -/

/-- Settles O11: each register and each window lies where the address map puts it. -/
theorem hostAddressMap : Obligations.HostAddressMap := by
  intro s
  refine ⟨⟨reads_of_mapped (.reg .cmd) s, reads_of_mapped (.reg .status) s, reads_of_mapped (.reg .log2n) s,
    reads_of_mapped (.reg .ylog2n) s, reads_of_mapped (.reg .srate) s, reads_of_mapped (.reg .wlen) s,
    reads_of_mapped (.reg .olen) s, reads_of_mapped (.reg .arg0) s, reads_of_mapped (.reg .arg1) s,
    reads_of_mapped (.reg .res) s, reads_of_mapped (.reg .fa0) s, reads_of_mapped (.reg .fa1) s,
    reads_of_mapped (.reg .fb0) s, reads_of_mapped (.reg .fb1) s, reads_of_mapped (.reg .fr0) s,
    reads_of_mapped (.reg .fr1) s⟩, fun i hi => ?_, fun i hi => ?_⟩
  · have working_entry : (if s.sel then s.entry .xb i else s.entry .xa i) = s.x i := by
      rw [State.x, State.working]
      split <;> rfl
    have even : 2 * i < 16384 := by omega
    have odd : 2 * i + 1 < 16384 := by omega
    rw [working_entry]
    exact ⟨reads_of_mapped (.xWindow (2 * i)) s even, reads_of_mapped (.xWindow (2 * i + 1)) s odd,
      reads_of_mapped (.y (2 * i)) s even, reads_of_mapped (.y (2 * i + 1)) s odd,
      reads_of_mapped (.s i) s hi, reads_of_mapped (.w i) s hi⟩
  · exact ⟨reads_of_mapped (.om i) s hi, reads_of_mapped (.freq i) s hi⟩

/-- Settles O13: the map names nothing at the unmapped addresses, and a location without a write at the read-only ones. -/
theorem busErrorsAreRefused : Obligations.BusErrorsAreRefused := by
  intro s a v
  have located (ha : ¬ Claims.Unmapped a.toNat) : ∃ l, locate a = some l :=
    Option.ne_none_iff_exists'.mp fun h => ha ((locate_eq_none_iff a).mp h)
  have read_only {l : Location} (hl : locate a = some l) : writeLocation s l v = none ↔ Claims.ReadOnly a.toNat :=
    (mapped_of_locate hl).writeLocation_eq_none_iff (inside_of_locate hl) s v
  simp only [step_offer, doAction]
  refine ⟨fun ha => ?_, fun ha => ?_, fun ha => ?_, fun ha hr => ?_⟩
  · have hl : locate a = none := (locate_eq_none_iff a).mpr ha
    simp [hostRead, hostWrite, hl]
  · obtain ⟨l, hl⟩ := located (by omega)
    exact hostWrite_of_readOnly hl ((read_only hl).mpr ha)
  · obtain ⟨l, hl⟩ := located ha
    exact ⟨_, hostRead_of_locate hl s⟩
  · obtain ⟨l, hl⟩ := located ha
    exact hostWrite_next_of_writable hl (mt (read_only hl).mp hr)

end Sys2Proof.Machine
end

section
/-! That every step keeps the invariant of the machine, and that no allowed host action is refused (10_state.md R32;
20_memory.md R66, R69; 60_exceptions.md R305, R306). -/

namespace Sys2Proof.Machine

/-! ### The invariant part by part -/

/-- What the invariant asks of each part of the state (`inv_iff_fits`). -/
def Part.Fits (s : State) : Part → Prop
  | .mem n => (s.mem n).wf (Config.memWords n) = true
  | .freqs => s.memOF.wf Config.outMax = true
  | .olen => s.olenOk = true
  | _ => True

theorem memoriesOk_iff (s : State) :
    s.memoriesOk = true ↔ (∀ n, (s.mem n).wf (Config.memWords n) = true) ∧ s.memOF.wf Config.outMax = true := by
  have every_name : ∀ n, n ∈ [MemName.xa, .xb, .y, .s, .w, .om] := by intro n; cases n <;> decide
  simp only [State.memoriesOk, Bool.and_eq_true, List.all_eq_true]
  exact and_congr_left fun _ => ⟨fun h n => h n (every_name n), fun h n _ => h n⟩

theorem inv_iff_fits (s : State) : s.Inv ↔ ∀ p : Part, p.Fits s := by
  constructor
  · rintro ⟨hmem, holen⟩ p
    obtain ⟨hwords, hfreqs⟩ := (memoriesOk_iff s).mp hmem
    cases p with
    | mem n => exact hwords n
    | freqs => exact hfreqs
    | olen => exact holen
    | _ => exact trivial
  · intro h
    exact ⟨(memoriesOk_iff s).mpr ⟨fun n => h (.mem n), h .freqs⟩, h .olen⟩

theorem Part.Same.fits {s t : State} {p : Part} (h : p.Same s t) (hs : p.Fits s) : p.Fits t := by
  cases p with
  | mem | freqs | olen =>
    simp only [Part.Same, Part.Fits, State.olenOk] at h hs ⊢
    rwa [h]
  | _ => exact trivial

/-- The invariant is kept if every part that changes fits. -/
theorem WritesOnly.inv {ps : List Part} {s t : State} (h : WritesOnly ps s t) (hs : s.Inv) (hps : ∀ p ∈ ps, p.Fits t) :
    t.Inv := by
  refine (inv_iff_fits t).mpr fun p => ?_
  by_cases hp : p ∈ ps
  · exact hps p hp
  · exact (h p hp).fits ((inv_iff_fits s).mp hs p)

theorem State.Inv.wf_mem {s : State} (h : s.Inv) (n : MemName) : (s.mem n).wf (Config.memWords n) = true :=
  (inv_iff_fits s).mp h (.mem n)

theorem State.Inv.wf_memOF {s : State} (h : s.Inv) : s.memOF.wf Config.outMax = true := (inv_iff_fits s).mp h .freqs

theorem inv_setMem {s : State} (h : s.Inv) {n : MemName} {m : Memory Word} (hm : m.wf (Config.memWords n) = true) :
    (s.setMem n m).Inv := by
  refine (inv_iff_fits _).mpr fun p => ?_
  cases p with
  | mem n' =>
    rw [Part.Fits, mem_setMem]
    split
    · next e => rwa [e]
    · exact h.wf_mem n'
  | freqs => simpa [Part.Fits] using h.wf_memOF
  | olen => simpa [Part.Fits, State.olenOk] using h.olen
  | _ => exact trivial

theorem inv_succeed {s : State} (h : s.Inv) : (succeed s).Inv := (writesOnly_succeed s).inv h (by simp)

theorem inv_raise {s : State} (h : s.Inv) (e : Err) : (raise e s).Inv := (writesOnly_raise e s).inv h (by simp)

theorem inv_flip {s : State} (h : s.Inv) : s.flip.Inv := ⟨h.memories, h.olen⟩

theorem inv_setResult {s : State} (h : s.Inv) (c : C64) : (s.setResult c).Inv :=
  (writesOnly_setResult s c).inv h (by simp [Part.Fits])

theorem inv_setRes {s : State} (h : s.Inv) (v : U32) : State.Inv { s with res := v } :=
  (writesOnly_setRes s v).inv h (by simp [Part.Fits])

theorem inv_putWords {s : State} (h : s.Inv) {m : MemName} {n : Nat} (hn : n ≤ Config.memWords m) (f : Nat → F64) :
    (s.putWords m n f).Inv := inv_setMem h (wf_loop_store hn f (h.wf_mem m))

theorem inv_putEntries {s : State} (h : s.Inv) {m : MemName} {n : Nat} (hn : 2 * n ≤ Config.memWords m) (f : Nat → C64) :
    (s.putEntries m n f).Inv :=
  inv_setMem h (wf_loop_storeC (g := fun i => i) (fun i hi => by omega) f (h.wf_mem m))

theorem inv_putFreqs {s : State} (h : s.Inv) {n : Nat} (hn : n ≤ Config.outMax) (f : Nat → U32) :
    (s.putFreqs n f).Inv :=
  (writesOnly_putFreqs s n f).inv h fun p hp => by
    obtain rfl := List.mem_singleton.mp hp
    exact wf_loop_store hn f h.wf_memOF

/-- Both working buffers have `2 * 8192` words (R36). -/
theorem memWords_of_bufferPart {n : MemName} (h : Part.mem n ∈ bufferParts) : Config.memWords n = 2 * Config.nMax := by
  simp only [List.mem_cons, Part.mem.injEq, List.not_mem_nil, or_false] at h
  rcases h with rfl | rfl <;> rfl

/-- A write of the other buffer that keeps its canonical form, and the flip, keep the invariant. -/
theorem inv_produce {s : State} (h : s.Inv) {w : Memory Word → Memory Word}
    (hw : ∀ m, m.wf (2 * Config.nMax) = true → (w m).wf (2 * Config.nMax) = true) : (s.produce w).Inv := by
  have hsize := memWords_of_bufferPart (other_mem_bufferParts s)
  have hmem := h.wf_mem s.other
  rw [hsize] at hmem
  exact inv_flip (inv_setMem h (by rw [hsize]; exact hw _ hmem))

/-! ### The effects of the commands that use N -/

/-- The invariant, with a length that fits the memories: what the length check leaves a command that uses N. -/
structure State.Sized (s : State) : Prop where
  inv : s.Inv
  len_le : s.len ≤ Config.nMax

theorem len_le_of_validLen {s : State} (h : s.validLen = true) : s.len ≤ Config.nMax :=
  Nat.pow_le_pow_right (by decide) ((validLen_iff s).mp h).2

/-- A write of the other buffer's entries below `N`. -/
theorem sized_produce {s : State} (h : s.Sized) {w : Memory Word → Memory Word}
    (hw : ∀ m, m.wf (2 * Config.nMax) = true → (w m).wf (2 * Config.nMax) = true) : (s.produce w).Sized :=
  ⟨inv_produce h.inv hw, by rw [len_produce]; exact h.len_le⟩

theorem sized_putEntries {s : State} (h : s.Sized) {m : MemName} (hm : Config.memWords m = 2 * Config.nMax)
    (f : Nat → C64) : (s.putEntries m s.len f).Sized :=
  ⟨inv_putEntries h.inv (by have := h.len_le; omega) f, by rw [len_putEntries]; exact h.len_le⟩

theorem sized_putWorking {s : State} (h : s.Sized) (f : Nat → C64) : (s.putEntries s.working s.len f).Sized :=
  sized_putEntries h (memWords_of_bufferPart (working_mem_bufferParts s)) f

theorem sized_reorder {s : State} (h : s.Sized) : (reorderEffect s).Sized :=
  sized_produce h fun _ hm => wf_loop_storeC (fun i _ => by
    have hlt := brevn_lt i s.log2n.toNat
    have hlen := h.len_le
    rw [State.len] at hlen
    omega) _ hm

theorem sized_revcopy {s : State} (h : s.Sized) : (revcopyEffect s).Sized :=
  sized_produce h fun _ hm => wf_loop_storeC (g := fun i => i) (fun i hi => by have := h.len_le; omega) _ hm

theorem wf_pairButterfly {size b : Nat} (s : State) (hb : 2 * (b + 1) + 1 < size) {z : Memory Word} (hz : z.wf size = true) :
    (pairButterfly s b z).wf size = true := wf_storeC hb _ (wf_storeC (by omega) _ hz)

theorem wf_twiddleButterfly {size half b q : Nat} (s : State) (blocks : Nat) (hb : 2 * (b + q + half) + 1 < size)
    {z : Memory Word} (hz : z.wf size = true) : (twiddleButterfly s half blocks b q z).wf size = true :=
  wf_storeC hb _ (wf_storeC (by omega) _ hz)

/-- The blocks of a stage lie below `N` (R204). -/
theorem sized_stage {s : State} (h : s.Sized) (a : Nat) : (stageEffect a s).Sized := by
  refine sized_produce h fun m hm => loop_induction (fun _ z => Memory.wf _ z = true) hm fun i hi z hz => ?_
  have block_end : i * 2 ^ a + 2 ^ a ≤ Config.nMax :=
    calc i * 2 ^ a + 2 ^ a = (i + 1) * 2 ^ a := (Nat.succ_mul i _).symm
      _ ≤ s.len / 2 ^ a * 2 ^ a := Nat.mul_le_mul_right _ hi
      _ ≤ s.len := Nat.div_mul_le_self _ _
      _ ≤ Config.nMax := h.len_le
  split
  · exact wf_pairButterfly s (by omega) hz
  · exact loop_induction (fun _ z => Memory.wf _ z = true) hz fun q hq y hy => wf_twiddleButterfly s _ (by omega) hy

theorem sized_fft {s : State} (h : s.Sized) : (fftEffect s).Sized :=
  loop_induction (fun _ t => State.Sized t) (sized_reorder h) fun i _ _ ht => sized_stage ht (i + 1)

theorem sized_ifft {s : State} (h : s.Sized) : (ifftEffect s).Sized := sized_putWorking (sized_fft (sized_revcopy h)) _

theorem sized_xchg {s : State} (h : s.Sized) : (xchgEffect s).Sized := by
  have second := sized_putEntries (sized_putWorking h s.yEntry) (m := .y) rfl s.x
  rwa [len_putEntries] at second

theorem sized_conv {s : State} (h : s.Sized) : (convEffect s).Sized :=
  sized_ifft (sized_putWorking (sized_fft (sized_xchg (sized_fft h))) _)

theorem sized_wapply {s : State} (h : s.Sized) : (wapplyEffect s).Sized :=
  ⟨inv_putWords h.inv h.len_le _, by rw [wapplyEffect, len_putWords]; exact h.len_le⟩

/-- `N/2 - 1` is one less than a power of two below `2^12` (R32). -/
theorem pairs_succ_of_len_le {s : State} (h : s.len ≤ Config.nMax) :
    ∃ j < Config.kMax, s.len / 2 - 1 + 1 = 2 ^ j := by
  have hk : s.log2n.toNat ≤ 13 := (Nat.pow_le_pow_iff_right (by decide)).mp h
  rw [State.len]
  cases hl : s.log2n.toNat with
  | zero => exact ⟨0, by decide, rfl⟩
  | succ j =>
    refine ⟨j, by rw [Config.kMax]; omega, ?_⟩
    have := Nat.two_pow_pos j
    rw [pow_succ]
    omega

theorem inv_setOlen {s : State} (h : s.Inv) {p : Nat} (hp : ∃ j < Config.kMax, p + 1 = 2 ^ j) :
    State.Inv { s with olen := BitVec.ofNat 12 p } := by
  refine ⟨h.memories, ?_⟩
  obtain ⟨j, hj, hpj⟩ := hp
  have small : p + 1 ≤ 2 ^ 12 := hpj ▸ Nat.pow_le_pow_right (by decide) (Nat.le_of_lt_succ hj)
  simp only [State.olenOk, List.any_eq_true, List.mem_range, beq_iff_eq, BitVec.toNat_ofNat]
  exact ⟨j, hj, by rw [Nat.mod_eq_of_lt (by omega), hpj]⟩

theorem inv_mag {s : State} (h : s.Sized) : (magEffect s).Inv := by
  have pairs_le : s.len / 2 - 1 ≤ Config.outMax := by
    have := h.len_le
    simp only [Config.nMax, Config.outMax] at this ⊢
    omega
  exact inv_setOlen (inv_putFreqs (inv_putWords h.inv pairs_le _) pairs_le _) (pairs_succ_of_len_le h.len_le)

theorem inv_analyze {s : State} (h : s.Sized) (windowed : Bool) : (analyzeEffect windowed s).Inv := by
  have window : (if windowed then wapplyEffect s else s).Sized := by
    split
    · exact sized_wapply h
    · exact h
  exact inv_mag (sized_fft (sized_putWorking window _))

/-- The window that `WGEN` writes has at most 8192 words, as its check asks (R247, R303). -/
theorem inv_wgen {s : State} (h : s.Inv) (hc : checkWindowLength s = none) (kind : WindowKind) :
    (wgenEffect kind s).Inv := by
  have hlen : s.arg0.toNat ≤ Config.nMax := by simpa [checkWindowLength] using hc
  exact (writesOnly_setWlen _ _).inv (inv_putWords h hlen _) (by simp [Part.Fits])

/-! ### Commands -/

/-- A command that uses N and whose checks succeed has a valid length (R98, R302). -/
theorem validLen_of_failedCheck {i : Instr} {s : State} (hu : Claims.usesLength i = true) (hc : failedCheck i s = none) :
    s.validLen = true := by
  have of_check (h : checkLength s = none) : s.validLen = true := by simpa [checkLength] using h
  have of_first {e : Option Err} (h : thenCheck (checkLength s) e = none) : s.validLen = true :=
    of_check ((thenCheck_eq_none _ _).mp h).1
  cases i with
  | reorder | fft | revcopy | scale | ifft | lift | mag => exact of_check hc
  | twld | stage | cmulv | xchg | conv | wapply => exact of_first hc
  | analyze a =>
    simp only [failedCheck] at hc
    split at hc
    · exact of_check hc
    · exact of_first hc
    · cases hc
  | _ => cases hu

/-- A command whose checks succeed keeps the invariant. -/
theorem inv_effectOf {i : Instr} {s : State} (h : s.Inv) (hc : failedCheck i s = none) : (effectOf i s).Inv := by
  have sized (hu : Claims.usesLength i = true := by rfl) : s.Sized :=
    ⟨h, len_le_of_validLen (validLen_of_failedCheck hu hc)⟩
  cases i with
  | nop => exact h
  | sin => exact (writesOnly_sin s).inv h (by simp [Part.Fits])
  | cos => exact (writesOnly_cos s).inv h (by simp [Part.Fits])
  | cmul | twld => exact inv_setResult h _
  | brev | brevn | resolve | asblock => exact inv_setRes h _
  | reorder => exact (sized_reorder sized).inv
  | stage a => exact (sized_stage sized a.toNat).inv
  | fft => exact (sized_fft sized).inv
  | revcopy => exact (sized_revcopy sized).inv
  | scale | cmulv | lift => exact (sized_putWorking sized _).inv
  | ifft => exact (sized_ifft sized).inv
  | xchg => exact (sized_xchg sized).inv
  | conv => exact (sized_conv sized).inv
  | wapply => exact (sized_wapply sized).inv
  | mag => exact inv_mag sized
  | wgen a =>
    simp only [failedCheck, effectOf] at hc ⊢
    cases hk : windowKind a with
    | none => exact h
    | some kind => exact inv_wgen h (by simpa [hk] using hc) kind
  | analyze a =>
    simp only [effectOf]
    rcases a.toNat with _ | _ | n
    · exact inv_analyze sized false
    · exact inv_analyze sized true
    · exact h

theorem inv_exec {i : Instr} {s t : State} (hs : s.Inv) (h : exec i s = .next t) : t.Inv := by
  obtain ⟨e, -, rfl⟩ | ⟨hc, rfl⟩ := exec_cases h
  · exact inv_raise hs e
  · exact inv_succeed (inv_effectOf hs hc)

theorem exec_port {i : Instr} {s t : State} (h : exec i s = .next t) : t.port = s.port := by
  have hp : Part.operands.Same s t := (exec_same_or_writer h .operands).resolve_right id
  simp only [Part.Same] at hp
  obtain ⟨-, -, -, -, -, -, -, -, -, -, -, hport⟩ := hp
  exact hport

/-! ### Host actions -/

/-- All that the write of a command word can do: run the command, or raise `ILLEGAL` (R95, R98). -/
theorem runCommand_cases {c : BitVec 32} {s t : State} (h : runCommand c s = .next t) :
    (∃ i, exec i { s with cmd := c } = .next t) ∨ t = raise .illegal { s with cmd := c } := by
  unfold runCommand at h
  split at h
  · exact .inl ⟨_, h⟩
  · cases h
    exact .inr rfl

/-- All that a host write can do: run a command, or write its location (R64). -/
theorem hostWrite_cases {a : Addr} {v : Word} {s t : State} (h : hostWrite a v s = .next t) :
    runCommand (v.setWidth 32) s = .next t ∨ ∃ l, locate a = some l ∧ writeLocation s l v = some t := by
  by_cases ha : a = 0
  · subst ha
    exact .inl h
  · cases hl : locate a with
    | none => simp [hostWrite, hl] at h
    | some l => exact .inr ⟨l, rfl, writeLocation_of_hostWrite ha hl h⟩

theorem inv_runCommand {c : BitVec 32} {s t : State} (hs : s.Inv) (h : runCommand c s = .next t) : t.Inv := by
  have stored : State.Inv { s with cmd := c } := ⟨hs.memories, hs.olen⟩
  obtain ⟨i, hi⟩ | rfl := runCommand_cases h
  · exact inv_exec stored hi
  · exact inv_raise stored .illegal

theorem inv_writeReg {s t : State} {r : Reg} {v : Word} (hs : s.Inv) (h : writeReg s r v = some t) : t.Inv := by
  cases r <;> cases h <;> exact ⟨hs.memories, hs.olen⟩

/-- The memory word that a location inside the map names lies inside that memory. -/
theorem Location.Inside.cell_lt {s : State} {l : Location} {n : MemName} {k : Nat} (h : l.Inside)
    (hc : l.cell s = some (n, k)) : k < Config.memWords n := by
  cases l with
  | reg r => cases hc
  | freq k => cases hc
  | mem n k => cases hc; exact h
  | xWindow k =>
    cases hc
    rw [memWords_of_bufferPart (working_mem_bufferParts s)]
    exact h

theorem inv_writeLocation {s t : State} {l : Location} {v : Word} (hs : s.Inv) (hl : l.Inside)
    (h : writeLocation s l v = some t) : t.Inv := by
  obtain ⟨r, -, hr⟩ | ⟨n, k, hc, rfl⟩ := writeLocation_cases h
  · exact inv_writeReg hs hr
  · exact inv_setMem hs (wf_store (hl.cell_lt hc) v (hs.wf_mem n))

/-- Every host action that the block carries out keeps the invariant, and what the host has yet to do. -/
theorem doAction_keeps {h : HostAction} {s t : State} (hs : s.Inv) (hd : doAction h s = .next t) :
    t.Inv ∧ t.port.pending = s.port.pending := by
  cases h with
  | reset =>
    cases hd
    exact ⟨⟨resetMeetsInvariant.memories, resetMeetsInvariant.olen⟩, rfl⟩
  | read a =>
    simp only [doAction, hostRead] at hd
    split at hd
    · cases hd
    · cases hd
      exact ⟨⟨hs.memories, hs.olen⟩, rfl⟩
  | write a v =>
    obtain hrun | ⟨l, hl, hw⟩ := hostWrite_cases hd
    · refine ⟨inv_runCommand hs hrun, ?_⟩
      obtain ⟨i, hi⟩ | rfl := runCommand_cases hrun
      · rw [exec_port hi]
      · rfl
    · obtain ⟨-, hport, -, -⟩ := writeLocation_keeps hw
      exact ⟨inv_writeLocation hs (inside_of_locate hl) hw, by rw [hport]⟩

/-- Which host actions are allowed does not depend on the state. -/
theorem allowed_congr (s t : State) (h : HostAction) : h.allowed s = h.allowed t := by
  have writable (l : Location) (v : Word) : (writeLocation s l v).isSome = (writeLocation t l v).isSome := by
    cases l with
    | reg r => cases r <;> rfl
    | mem n k => cases n <;> rfl
    | _ => rfl
  cases h with
  | write a v => cases hl : locate a <;> simp [HostAction.allowed, hl, writable]
  | _ => rfl

/-- An allowed host action is carried out (R66). -/
theorem doAction_next_of_allowed {h : HostAction} {s : State} (ha : h.allowed s = true) : ∃ t, doAction h s = .next t := by
  cases h with
  | reset => exact ⟨_, rfl⟩
  | read a =>
    obtain ⟨l, hl⟩ := Option.isSome_iff_exists.mp ha
    exact ⟨_, hostRead_of_locate hl s⟩
  | write a v =>
    cases hl : locate a with
    | none => simp [HostAction.allowed, hl] at ha
    | some l =>
      have hw : writeLocation s l v ≠ none := by simpa [HostAction.allowed, hl, Option.isSome_iff_ne_none] using ha
      exact hostWrite_next_of_writable hl hw

/-! ### Steps and runs -/

/-- A step keeps the invariant, and all that the host has yet to do but the action it carries out. -/
theorem step_keeps {s t : State} (hs : s.Inv) (h : step s = .next t) : t.Inv ∧ t.port.pending = s.port.pending.tail := by
  cases hp : s.port.pending with
  | nil =>
    rw [step_idle hp] at h
    cases h
    exact ⟨hs, hp⟩
  | cons a rest =>
    rw [step_of_pending hp] at h
    exact doAction_keeps (s := { s with port := { s.port with pending := rest } }) ⟨hs.memories, hs.olen⟩ h

theorem step_next_of_allowed {s : State} (ha : ∀ h ∈ s.port.pending, h.allowed s = true) : ∃ t, step s = .next t := by
  cases hp : s.port.pending with
  | nil => exact ⟨s, step_idle hp⟩
  | cons a rest =>
    rw [step_of_pending hp]
    refine doAction_next_of_allowed ?_
    rw [allowed_congr _ s]
    exact ha a (by simp [hp])

theorem run_succ_of_next {M : Host.Core} {s t : M.State} (h : M.step s = .next t) (n : Nat) :
    M.run (n + 1) s = M.run n t := by
  rw [Host.Core.run, h]

/-! ### Obligations -/

/-- Settles O7: each command writes inside its memories once its checks succeed, and each host write inside its window. -/
theorem stepKeepsInvariant : Obligations.StepKeepsInvariant := fun _ _ hs h => (step_keeps hs h).1

/-- Settles O8, by induction on the number of steps: an allowed action gives a next state, and the actions left are still
allowed there. -/
theorem allowedRunsAreSafe : Obligations.AllowedRunsAreSafe := by
  intro s hs ha n
  induction n generalizing s with
  | zero => exact ⟨s, rfl, hs⟩
  | succ n ih =>
    obtain ⟨t, ht⟩ := step_next_of_allowed ha
    obtain ⟨hinv, hpending⟩ := step_keeps hs ht
    have still_allowed : ∀ h ∈ t.port.pending, h.allowed t = true := fun h hm => by
      rw [allowed_congr t s]
      exact ha h (List.mem_of_mem_tail (hpending ▸ hm))
    rw [SafeRun, run_succ_of_next (M := Sys2Proof.core) ht]
    exact ih t hinv still_allowed

end Sys2Proof.Machine
end

section
/-! The command word and its fields, the opcode map, and that decoder and encoder are inverse (30_encoding.md R91 to
R97). -/

namespace Sys2Proof

/-! ### The fields of a command word (R91) -/

@[simp] theorem opField_commandWord (op a : BitVec 8) : opField (commandWord op a) = op :=
  BitVec.extractLsb'_append_eq_right

@[simp] theorem aField_commandWord (op a : BitVec 8) : aField (commandWord op a) = a := by
  rw [aField, commandWord, BitVec.extractLsb'_append_eq_of_le (by decide)]
  exact BitVec.extractLsb'_append_eq_right

@[simp] theorem rsvField_commandWord (op a : BitVec 8) : rsvField (commandWord op a) = 0 := by
  rw [rsvField, commandWord, BitVec.extractLsb'_append_eq_of_le (by decide)]
  exact BitVec.extractLsb'_append_eq_left

/-- A word is its three fields, side by side. -/
theorem append_fields (c : BitVec 32) : rsvField c ++ aField c ++ opField c = c := by
  have upper : rsvField c ++ aField c = c.extractLsb' 8 24 := BitVec.extractLsb'_append_extractLsb'_eq_extractLsb' rfl
  rw [upper]
  exact (BitVec.extractLsb'_append_extractLsb'_eq_extractLsb' rfl).trans BitVec.extractLsb'_eq_self

theorem commandWord_fields {c : BitVec 32} (h : rsvField c = 0) : commandWord (opField c) (aField c) = c := by
  have hc := append_fields c
  rwa [h] at hc

theorem toNat_opField (c : BitVec 32) : (opField c).toNat = c.toNat % 256 := by
  simp [opField]

theorem toNat_aField (c : BitVec 32) : (aField c).toNat = c.toNat / 256 % 256 := by
  simp [aField, Nat.shiftRight_eq_div_pow]

theorem toNat_rsvField (c : BitVec 32) : (rsvField c).toNat = c.toNat / 65536 := by
  simp only [rsvField, BitVec.extractLsb'_toNat, Nat.shiftRight_eq_div_pow]
  omega

/-! ### The opcode map (R93) -/

/-- The format of the row allows the field `a`: in `C0` it must be zero (R91). -/
def OpRow.Takes (r : OpRow) (a : BitVec 8) : Prop := r.format = .c0 → a = 0

theorem nodup_opcodes : (opcodeMap.map OpRow.op).Nodup := by decide

/-- No two rows have one opcode, so the row that the decoder finds is the row of that opcode. -/
theorem find_row_eq_some_iff (op : BitVec 8) (r : OpRow) :
    opcodeMap.find? (fun q => q.op = op) = some r ↔ r ∈ opcodeMap ∧ r.op = op := by
  have of_find {q : OpRow} (h : opcodeMap.find? (fun q => q.op = op) = some q) : q ∈ opcodeMap ∧ q.op = op :=
    ⟨List.mem_of_find?_eq_some h, by simpa using List.find?_some h⟩
  refine ⟨of_find, fun ⟨hr, hop⟩ => ?_⟩
  obtain ⟨q, hq⟩ := Option.isSome_iff_exists.mp (List.find?_isSome (p := fun q => q.op = op).mpr ⟨r, hr, by simpa⟩)
  obtain ⟨hmem, hqop⟩ := of_find hq
  rw [hq, List.inj_on_of_nodup_map nodup_opcodes hmem hr (hqop.trans hop.symm)]

theorem exists_row (i : Instr) : ∃ r ∈ opcodeMap, ∃ a, r.Takes a ∧ r.build a = i := by
  cases i <;> simp [opcodeMap, OpRow.Takes]

/-- The encoder follows the map. -/
theorem encode_build {r : OpRow} (hr : r ∈ opcodeMap) {a : BitVec 8} (ha : r.Takes a) :
    encode (r.build a) = commandWord r.op a := by
  have every_row : ∀ r ∈ opcodeMap, ∀ a, r.Takes a → encode (r.build a) = commandWord r.op a := by
    simp [opcodeMap, OpRow.Takes, encode]
  exact every_row r hr a ha

/-! ### The decoder -/

/-- All words that decode: what a row of the map makes of a field `a` that it takes and that is legal (R93, R95). -/
theorem decode_eq_ok_iff (c : BitVec 32) (i : Instr) :
    decode c = .ok i ↔
      ∃ r ∈ opcodeMap, ∃ a, r.Takes a ∧ commandWord r.op a = c ∧ r.build a = i ∧ i.wellFormed := by
  constructor
  · intro h
    unfold decode at h
    split at h
    · cases h
    next hrsv =>
    split at h
    · cases h
    next r hfind =>
    obtain ⟨hr, hop⟩ := (find_row_eq_some_iff _ r).mp hfind
    split at h
    · cases h
    next htakes =>
    split at h
    · cases h
    · cases h
    next hwf =>
    cases h
    refine ⟨r, hr, aField c, by simpa [OpRow.Takes] using htakes, ?_, rfl, hwf⟩
    rw [hop, commandWord_fields (not_not.mp hrsv)]
  · rintro ⟨r, hr, a, ha, rfl, rfl, hwf⟩
    have hfind := (find_row_eq_some_iff r.op r).mpr ⟨hr, rfl⟩
    simpa [decode, hfind, hwf, OpRow.Takes] using ha

/-! ### The illegal words (R95) -/

theorem wellFormed_wgen_iff (a : BitVec 8) : (Instr.wgen a).wellFormed ↔ a.toNat ≤ 4 := by
  simp [Instr.wellFormed, Instr.illFormed]

theorem wellFormed_analyze_iff (a : BitVec 8) : (Instr.analyze a).wellFormed ↔ a.toNat ≤ 1 := by
  simp [Instr.wellFormed, Instr.illFormed]

/-- The fields `a` that R95 calls illegal in a word of the opcode `op`. -/
def IllegalOperand (op a : Nat) : Prop :=
  (op ∉ [0x18, 0x20, 0x2A] ∧ a ≠ 0) ∨ (op = 0x20 ∧ 4 < a) ∨ (op = 0x2A ∧ 1 < a)

/-- Row by row, the map and the check of well-formedness accept the fields `a` that are not illegal. -/
theorem illegalOperand_iff {r : OpRow} (hr : r ∈ opcodeMap) (a : BitVec 8) :
    IllegalOperand r.op.toNat a.toNat ↔ ¬ (r.Takes a ∧ (r.build a).wellFormed) := by
  have every_row : ∀ r ∈ opcodeMap, ∀ a : BitVec 8,
      IllegalOperand r.op.toNat a.toNat ↔ ¬ (r.Takes a ∧ (r.build a).wellFormed) := by
    simp [opcodeMap, OpRow.Takes, IllegalOperand, Instr.illFormed, BitVec.toNat_eq]
  exact every_row r hr a

/-- The opcodes that R95 calls unused are those without a row. -/
theorem unusedCode_iff (op : BitVec 8) :
    op.toNat ∉ [0x00, 0x01, 0x02, 0x03, 0x08, 0x09, 0x0A, 0x10, 0x18, 0x19, 0x1A, 0x1B, 0x1C, 0x1D, 0x1E, 0x1F, 0x20, 0x21,
      0x22, 0x23, 0x28, 0x29, 0x2A] ↔ ∀ r ∈ opcodeMap, r.op ≠ op := by
  simp [opcodeMap, BitVec.toNat_eq, eq_comm]

theorem illegalWord_iff (c : BitVec 32) :
    Claims.IllegalWord c ↔ rsvField c ≠ 0 ∨ (∀ r ∈ opcodeMap, r.op ≠ opField c) ∨
      IllegalOperand (opField c).toNat (aField c).toNat := by
  have reserved : c.toNat / 65536 ≠ 0 ↔ rsvField c ≠ 0 := by
    rw [← toNat_rsvField]
    exact BitVec.toNat_ne_iff_ne (y := 0)
  rw [← unusedCode_iff, Claims.IllegalWord, IllegalOperand, toNat_opField, toNat_aField, reserved]

theorem illegalWord_iff_not_decode (c : BitVec 32) : Claims.IllegalWord c ↔ ∀ i, decode c ≠ .ok i := by
  constructor
  · intro h i hi
    obtain ⟨r, hr, a, ha, rfl, rfl, hwf⟩ := (decode_eq_ok_iff c i).mp hi
    rw [illegalWord_iff, rsvField_commandWord, opField_commandWord, aField_commandWord, illegalOperand_iff hr] at h
    obtain h0 | hop | hbad := h
    · exact h0 rfl
    · exact hop r hr rfl
    · exact hbad ⟨ha, hwf⟩
  · intro h
    by_contra hlegal
    obtain ⟨hrsv, hop, hoperand⟩ : rsvField c = 0 ∧ (∃ r ∈ opcodeMap, r.op = opField c) ∧
        ¬ IllegalOperand (opField c).toNat (aField c).toNat := by
      simpa [illegalWord_iff] using hlegal
    obtain ⟨r, hr, hrop⟩ := hop
    rw [← hrop, illegalOperand_iff hr, not_not] at hoperand
    obtain ⟨htakes, hwf⟩ := hoperand
    refine h (r.build (aField c)) ((decode_eq_ok_iff c _).mpr ⟨r, hr, aField c, htakes, ?_, rfl, hwf⟩)
    rw [hrop, commandWord_fields hrsv]

/-! ### Obligations -/

/-- Settles O1: every instruction comes from a row of the map, whose word the encoder gives. -/
theorem encodedCommandDecodesToItself : Obligations.EncodedCommandDecodesToItself := by
  intro i hwf
  obtain ⟨r, hr, a, ha, rfl⟩ := exists_row i
  exact (decode_eq_ok_iff _ _).mpr ⟨r, hr, a, ha, (encode_build hr ha).symm, rfl, hwf⟩

/-- Settles O2: a word that decodes is the word of a row, which is the one the encoder gives. -/
theorem everyLegalWordHasOneMeaning : Obligations.EveryLegalWordHasOneMeaning := by
  intro c i h
  obtain ⟨r, hr, a, ha, rfl, rfl, hwf⟩ := (decode_eq_ok_iff c i).mp h
  exact ⟨encode_build hr ha, hwf⟩

/-- Settles O4, by decoding each word. -/
theorem wordsOfEachFamilyDecode : Obligations.WordsOfEachFamilyDecode :=
  ⟨rfl, rfl, rfl, rfl, rfl, rfl, rfl, rfl, rfl⟩

end Sys2Proof
end

section
/-! What the write of a command word does (30_encoding.md R90, R95), and the code that a command reports (R98). -/

namespace Sys2Proof.Machine

/-! ### The write of a command word -/

/-- A write of word 0 runs its low 32 bits (R64, R90). -/
theorem step_offer_write_cmd (s : State) (v : Word) : step (s.offer (.write 0 v)) = runCommand (v.setWidth 32) s := rfl

theorem step_offer_commandAction (s : State) (c : BitVec 32) : step (s.offer (commandAction c)) = runCommand c s := by
  rw [commandAction, step_offer_write_cmd, BitVec.setWidth_setWidth_of_le _ (by decide), BitVec.setWidth_eq]

theorem runCommand_of_ok {c : BitVec 32} {i : Instr} (h : decode c = .ok i) (s : State) :
    runCommand c s = exec i { s with cmd := c } := by
  rw [runCommand, h]

theorem runCommand_of_error {c : BitVec 32} {e : DecodeError} (h : decode c = .error e) (s : State) :
    runCommand c s = .next { s with cmd := c, err := .illegal } := by
  rw [runCommand, h]
  rfl

/-- A table word of all 32 bits is the word itself. -/
theorem tableWord_toNat (c : BitVec 32) : tableWord 32 c.toNat = c := by
  rw [tableWord, Nat.mod_eq_of_lt c.isLt, BitVec.ofNat_toNat, BitVec.setWidth_eq]

/-! ### The checks in the order of R98 -/

theorem windowKind_eq_none_iff (a : BitVec 8) : windowKind a = none ↔ ¬ a.toNat ≤ 4 := by
  unfold windowKind
  split
  case h_6 =>
    simp only [imp_false] at *
    simp only [true_iff]
    omega
  all_goals simp [*]

theorem failedCheck_of_not_wellFormed {i : Instr} (hi : ¬ i.wellFormed) (s : State) : failedCheck i s = some .illegal := by
  cases i with
  | wgen a =>
    have reserved : windowKind a = none := by rwa [windowKind_eq_none_iff, ← wellFormed_wgen_iff]
    simp [failedCheck, reserved]
  | analyze a =>
    rw [wellFormed_analyze_iff] at hi
    obtain ⟨n, hn⟩ : ∃ n, a.toNat = n + 2 := ⟨a.toNat - 2, by omega⟩
    simp [failedCheck, hn]
  | _ => exact absurd rfl hi

@[simp] theorem thenCheck_none_right (x : Option Err) : thenCheck x none = x := by cases x <;> rfl

theorem pts_eq_len (s : State) : Claims.pts s = s.len := rfl

theorem checkWindowLength_eq (s : State) : checkWindowLength s = failIf (decide (8192 < s.arg0.toNat)) .operand := rfl

/-- The range check of a command's operand, if it has one (R98, R303). -/
def operandCheck (i : Instr) (s : State) : Option Err :=
  match i with
  | .stage a => checkStage a s
  | .brevn => checkBrevn s
  | .wgen _ => checkWindowLength s
  | .twld => checkTwiddleIndex s
  | _ => none

/-- The comparison of two lengths, if the command makes one (R98, R304). -/
def matchCheck (i : Instr) (s : State) : Option Err :=
  match i with
  | .cmulv | .xchg | .conv => checkOperandLength s
  | .wapply => checkWindowMatch s
  | .analyze a => if a.toNat = 1 then checkWindowMatch s else none
  | _ => none

/-- After the length, a well-formed command checks its operand and then the lengths that must agree (R98). -/
theorem failedCheck_of_length_passed {i : Instr} {s : State} (hi : i.wellFormed)
    (hl : Claims.usesLength i = true → checkLength s = none) :
    failedCheck i s = thenCheck (operandCheck i s) (matchCheck i s) := by
  cases i with
  | wgen a =>
    have legal : windowKind a ≠ none := by rwa [ne_eq, windowKind_eq_none_iff, not_not, ← wellFormed_wgen_iff]
    obtain ⟨kind, hk⟩ := Option.ne_none_iff_exists'.mp legal
    simp [failedCheck, operandCheck, matchCheck, hk]
  | analyze a =>
    rw [wellFormed_analyze_iff, Nat.le_one_iff_eq_zero_or_eq_one] at hi
    obtain h0 | h1 := hi
    · simp [failedCheck, operandCheck, matchCheck, hl rfl, h0]
    · simp [failedCheck, operandCheck, matchCheck, checkWindowed, hl rfl, h1]
  | nop | sin | cos | cmul | brev | brevn | resolve | asblock => simp [failedCheck, operandCheck, matchCheck]
  | _ => simp [failedCheck, operandCheck, matchCheck, checkTwoSequences, checkWindowed, hl rfl]

theorem operandCheck_eq_some_iff (i : Instr) (s : State) : operandCheck i s = some .operand ↔ Claims.OperandBad s i := by
  cases i <;>
    simp [operandCheck, Claims.OperandBad, checkStage, checkBrevn, checkWindowLength_eq, checkTwiddleIndex, pts_eq_len]

theorem operandCheck_eq_none_iff (i : Instr) (s : State) : operandCheck i s = none ↔ ¬ Claims.OperandBad s i := by
  cases i <;>
    simp [operandCheck, Claims.OperandBad, checkStage, checkBrevn, checkWindowLength_eq, checkTwiddleIndex, pts_eq_len]

theorem matchCheck_eq_some_iff (i : Instr) (s : State) : matchCheck i s = some .mismatch ↔ Claims.LengthsDiffer s i := by
  cases i <;> simp [matchCheck, Claims.LengthsDiffer, checkOperandLength, checkWindowMatch, pts_eq_len]

theorem matchCheck_eq_none_iff (i : Instr) (s : State) : matchCheck i s = none ↔ ¬ Claims.LengthsDiffer s i := by
  cases i <;> simp [matchCheck, Claims.LengthsDiffer, checkOperandLength, checkWindowMatch, pts_eq_len]

/-- Every command ends, and the code it leaves is that of its first failing check, or `OK`. -/
theorem exec_err (i : Instr) (s : State) : ∃ t, exec i s = .next t ∧ t.err = (failedCheck i s).getD .ok := by
  rw [exec_eq_perform]
  cases failedCheck i s with
  | none => exact ⟨_, perform_none _ _, succeed_err _⟩
  | some e => exact ⟨_, perform_some _ _ _, raise_err _ _⟩

/-! ### Obligations -/

/-- Settles O3: a row of the map makes exactly the words that R95 does not call illegal. -/
theorem illegalWordsRaiseIllegal : Obligations.IllegalWordsRaiseIllegal := by
  have rejected (c : BitVec 32) : Claims.IllegalWord c ↔ ∃ e, decode c = .error e := by
    rw [illegalWord_iff_not_decode]
    cases decode c <;> simp
  refine ⟨rejected, fun s v h => ?_⟩
  obtain ⟨e, he⟩ := (rejected _).mp h
  rw [step_offer_write_cmd, runCommand_of_error he]

/-- Settles O10: the write of word 0 is `runCommand`, and a word that the decoder accepts runs its command. -/
theorem commandWriteRunsDecodedCommand : Obligations.CommandWriteRunsDecodedCommand := by
  refine ⟨fun s v i h => ?_, fun s i hwf => ?_⟩
  · rw [step_offer_write_cmd, runCommand_of_ok h]
  · have runs : runCommand (encode i) s = exec i { s with cmd := encode i } :=
      runCommand_of_ok (encodedCommandDecodesToItself i hwf) s
    rw [State.withFetchWord, tableWord_toNat, step_offer_commandAction]
    exact ⟨runs, runs⟩

/-- Settles O17: a command reports what `failedCheck` finds, and `failedCheck` keeps to the order of R98. -/
theorem firstFailingCheckIsReported : Obligations.FirstFailingCheckIsReported := by
  intro i s
  obtain ⟨t, ht, herr⟩ := exec_err i s
  have invalid (h : ¬ Claims.ValidLen s) : s.validLen = false := Bool.eq_false_iff.mpr (mt (validLen_iff s).mp h)
  have passed (hi : i.wellFormed) (hl : Claims.usesLength i = true → Claims.ValidLen s) :=
    failedCheck_of_length_passed hi fun hu => (checkLength_eq_none s).mpr (hl hu)
  refine ⟨t, ht, fun hi => ?_, fun hi hu hl => ?_, fun hi hl hop => ?_, fun hi hl hop hd => ?_, fun hi hl hop hd => ?_⟩
  · rw [herr, failedCheck_of_not_wellFormed hi, Option.getD_some]
  · rw [herr, failedCheck_of_not_validLen hi hu (invalid hl), Option.getD_some]
  · rw [herr, passed hi hl, (operandCheck_eq_some_iff i s).mpr hop, thenCheck_some, Option.getD_some]
  · rw [herr, passed hi hl, (operandCheck_eq_none_iff i s).mpr hop, thenCheck_none, (matchCheck_eq_some_iff i s).mpr hd,
      Option.getD_some]
  · rw [herr, passed hi hl, (operandCheck_eq_none_iff i s).mpr hop, thenCheck_none, (matchCheck_eq_none_iff i s).mpr hd,
      Option.getD_none]

end Sys2Proof.Machine
end

section
/-! The classes of a pattern (40_numerics.md R110), and each operation case by case (R112 to R115). -/

namespace Sys2Proof.Machine

/-! ### The classes -/

theorem isNaN_of_isFinite {a : F64} (h : isFinite a = true) : isNaN a = false := by
  simp_all [isFinite, isNaN]

theorem isInf_of_isFinite {a : F64} (h : isFinite a = true) : isInf a = false := by
  simp_all [isFinite, isInf]

theorem isFinite_of_isZero {a : F64} (h : isZero a = true) : isFinite a = true := by
  simp_all [isFinite, isZero]

theorem isNaN_of_isInf {a : F64} (h : isInf a = true) : isNaN a = false := by
  simp_all [isNaN, isInf]

theorem isZero_of_isInf {a : F64} (h : isInf a = true) : isZero a = false := by
  simp_all [isZero, isInf]

/-- A pattern that is no NaN is finite or an infinity. -/
theorem isFinite_or_isInf {a : F64} (h : isNaN a = false) : isFinite a = true ∨ isInf a = true := by
  by_cases he : expField a = 2047
  · exact .inr (by simp_all [isNaN, isInf])
  · exact .inl (by simp [isFinite, he])

theorem magnitude_eq_zero_iff (a : F64) : magnitude a = 0 ↔ isZero a = true := by
  by_cases he : expField a = 0 <;> simp [magnitude, isZero, he]

theorem magnitude_pos {a : F64} (h : isZero a = false) : 0 < magnitude a := by
  rw [Nat.pos_iff_ne_zero, ne_eq, magnitude_eq_zero_iff, h]
  exact Bool.false_ne_true

theorem isNaN_qNaN : isNaN qNaN = true := by decide

@[simp] theorem isZero_withSign_zero (neg : Bool) : isZero (withSign neg 0) = true := by cases neg <;> decide

@[simp] theorem isInf_withSign_infPattern (neg : Bool) : isInf (withSign neg infPattern) = true := by cases neg <;> decide

@[simp] theorem roundUnits_zero (d : Nat) : roundUnits 0 d = 0 := by
  simp [roundUnits, gridExponent, gridPattern, nearestEven]

/-! ### The sum -/

theorem fadd_of_isNaN {a b : F64} (h : isNaN a = true ∨ isNaN b = true) : fadd a b = qNaN := by
  rcases h with h | h <;> simp [fadd, h]

theorem fadd_of_isInf {a b : F64} (ha : isInf a = true) (hb : isInf b = true) :
    fadd a b = if signBit a = signBit b then a else qNaN := by
  by_cases h : signBit a = signBit b <;> simp [fadd, isNaN_of_isInf, ha, hb, h]

theorem fadd_of_isInf_of_isFinite {a b : F64} (ha : isInf a = true) (hb : isFinite b = true) : fadd a b = a := by
  simp [fadd, ha, isNaN_of_isInf ha, isNaN_of_isFinite hb, isInf_of_isFinite hb]

theorem fadd_of_isFinite {a b : F64} (ha : isFinite a = true) (hb : isFinite b = true) :
    fadd a b = if signedUnits a + signedUnits b = 0 then (if signBit a = true ∧ signBit b = true then negZero else posZero)
      else withSign (decide (signedUnits a + signedUnits b < 0)) (roundUnits (signedUnits a + signedUnits b).natAbs 1) := by
  simp [fadd, isNaN_of_isFinite ha, isNaN_of_isFinite hb, isInf_of_isFinite ha, isInf_of_isFinite hb]

theorem fadd_comm (a b : F64) : fadd a b = fadd b a := by
  by_cases hn : isNaN a = true ∨ isNaN b = true
  · rw [fadd_of_isNaN hn, fadd_of_isNaN hn.symm]
  · simp only [not_or, Bool.not_eq_true] at hn
    obtain ⟨hna, hnb⟩ := hn
    obtain ha | ha := isFinite_or_isInf hna <;> obtain hb | hb := isFinite_or_isInf hnb
    · simp only [fadd_of_isFinite ha hb, fadd_of_isFinite hb ha, add_comm (signedUnits b), and_comm (a := signBit b = true)]
    · simp [fadd, hna, hnb, hb, isInf_of_isFinite ha]
    · simp [fadd, hna, hnb, ha, isInf_of_isFinite hb]
    · rw [fadd_of_isInf ha hb, fadd_of_isInf hb ha]
      by_cases hs : signBit a = signBit b
      · have same : a = b := by
          simp only [isInf, Bool.and_eq_true, beq_iff_eq] at ha hb
          exact fields_ext hs (ha.1.trans hb.1.symm) (ha.2.trans hb.2.symm)
        rw [same]
      · rw [if_neg hs, if_neg (Ne.symm hs)]

/-- A sum of two values of sign 0 is a NaN or has sign 0. -/
theorem fadd_nonneg {a b : F64} (ha : isNaN a = true ∨ signBit a = false) (hb : isNaN b = true ∨ signBit b = false) :
    isNaN (fadd a b) = true ∨ signBit (fadd a b) = false := by
  by_cases hn : isNaN a = true ∨ isNaN b = true
  · rw [fadd_of_isNaN hn]
    exact .inl isNaN_qNaN
  · simp only [not_or, Bool.not_eq_true] at hn
    obtain ⟨hna, hnb⟩ := hn
    have sa : signBit a = false := ha.resolve_left (by simp [hna])
    have sb : signBit b = false := hb.resolve_left (by simp [hnb])
    right
    obtain fa | fa := isFinite_or_isInf hna <;> obtain fb | fb := isFinite_or_isInf hnb
    · have units : ¬ signedUnits a + signedUnits b < 0 := by simp only [signedUnits, sa, sb, Bool.false_eq_true, if_false]; omega
      rw [fadd_of_isFinite fa fb]
      split
      · simp only [sa, Bool.false_eq_true, false_and, if_false]
        decide
      · rw [signBit_withSign _ (roundUnits_le _ _), decide_eq_false units]
    · rw [fadd_comm, fadd_of_isInf_of_isFinite fb fa, sb]
    · rw [fadd_of_isInf_of_isFinite fa fb, sa]
    · rw [fadd_of_isInf fa fb, if_pos (sa.trans sb.symm), sa]

/-! ### The product -/

theorem fmul_of_isNaN {a b : F64} (h : isNaN a = true ∨ isNaN b = true) : fmul a b = qNaN := by
  rcases h with h | h <;> simp [fmul, h]

theorem fmul_of_isInf {a b : F64} (ha : isInf a = true) (hb : isNaN b = false) :
    fmul a b = if isZero b = true then qNaN else withSign (signBit a != signBit b) infPattern := by
  simp [fmul, ha, hb, isNaN_of_isInf ha, isZero_of_isInf ha]

theorem fmul_of_isFinite {a b : F64} (ha : isFinite a = true) (hb : isFinite b = true) :
    fmul a b = withSign (signBit a != signBit b) (roundUnits (magnitude a * magnitude b) unitOne) := by
  simp [fmul, isNaN_of_isFinite ha, isNaN_of_isFinite hb, isInf_of_isFinite ha, isInf_of_isFinite hb]

theorem fmul_comm (a b : F64) : fmul a b = fmul b a := by
  simp only [fmul, Nat.mul_comm (magnitude a), Bool.or_comm (isNaN a), Bool.or_comm (isInf a), Bool.or_comm (isZero a),
    bne_comm (a := signBit a)]

theorem signBit_fmul {a b : F64} (h : isNaN (fmul a b) = false) : signBit (fmul a b) = (signBit a != signBit b) := by
  unfold fmul at h ⊢
  split_ifs at h ⊢
  · simp [isNaN_qNaN] at h
  · simp [isNaN_qNaN] at h
  · exact signBit_withSign _ le_rfl
  · exact signBit_withSign _ (roundUnits_le _ _)

theorem fmul_self_nonneg (a : F64) : isNaN (fmul a a) = true ∨ signBit (fmul a a) = false := by
  cases h : isNaN (fmul a a) with
  | true => exact .inl rfl
  | false => exact .inr (by rw [signBit_fmul h, bne_self_eq_false])

/-! ### The quotient -/

theorem fdiv_of_isNaN {a b : F64} (h : isNaN a = true ∨ isNaN b = true) : fdiv a b = qNaN := by
  rcases h with h | h <;> simp [fdiv, h]

theorem fdiv_of_isInf {a b : F64} (ha : isInf a = true) (hb : isInf b = true) : fdiv a b = qNaN := by
  simp [fdiv, ha, hb]

theorem fdiv_of_isInf_of_isFinite {a b : F64} (ha : isInf a = true) (hb : isFinite b = true) :
    fdiv a b = withSign (signBit a != signBit b) infPattern := by
  simp [fdiv, ha, isNaN_of_isInf ha, isNaN_of_isFinite hb, isInf_of_isFinite hb]

theorem fdiv_of_isFinite_of_isInf {a b : F64} (ha : isFinite a = true) (hb : isInf b = true) :
    fdiv a b = withSign (signBit a != signBit b) 0 := by
  simp [fdiv, hb, isNaN_of_isInf hb, isNaN_of_isFinite ha, isInf_of_isFinite ha]

theorem fdiv_of_isZero {a b : F64} (ha : isFinite a = true) (hb : isZero b = true) :
    fdiv a b = if isZero a = true then qNaN else withSign (signBit a != signBit b) infPattern := by
  have fb := isFinite_of_isZero hb
  simp [fdiv, hb, isNaN_of_isFinite ha, isInf_of_isFinite ha, isNaN_of_isFinite fb, isInf_of_isFinite fb]

theorem fdiv_of_isFinite {a b : F64} (ha : isFinite a = true) (hb : isFinite b = true) (hz : isZero b = false) :
    fdiv a b = withSign (signBit a != signBit b) (roundUnits (magnitude a * unitOne) (magnitude b)) := by
  simp [fdiv, hz, isNaN_of_isFinite ha, isNaN_of_isFinite hb, isInf_of_isFinite ha, isInf_of_isFinite hb]

theorem signBit_fdiv {a b : F64} (h : isNaN (fdiv a b) = false) : signBit (fdiv a b) = (signBit a != signBit b) := by
  unfold fdiv at h ⊢
  split_ifs at h ⊢
  · simp [isNaN_qNaN] at h
  · simp [isNaN_qNaN] at h
  · exact signBit_withSign _ le_rfl
  · exact signBit_withSign _ (Nat.zero_le _)
  · simp [isNaN_qNaN] at h
  · exact signBit_withSign _ le_rfl
  · exact signBit_withSign _ (roundUnits_le _ _)

/-! ### The square root -/

theorem fsqrt_of_isNaN {a : F64} (h : isNaN a = true) : fsqrt a = qNaN := by simp [fsqrt, h]

theorem fsqrt_of_negative {a : F64} (hz : isZero a = false) (hs : signBit a = true) : fsqrt a = qNaN := by
  simp [fsqrt, hz, hs]

theorem fsqrt_of_positive {a : F64} (hf : isFinite a = true) (hz : isZero a = false) (hs : signBit a = false) :
    fsqrt a = withSign false (roundSqrt (magnitude a * unitOne)) := by
  simp [fsqrt, hz, hs, isNaN_of_isFinite hf, isInf_of_isFinite hf]

/-! ### Obligations -/

/-- Settles O29. `(2^53 + 1) + 1` loses both units to ties, `2^53 + (1 + 1)` neither; `(2^1023 · 2) · 0.5` overflows on the way. -/
theorem addAndMulCommute : Obligations.AddAndMulCommute := by
  refine ⟨fun a b => ⟨fadd_comm a b, fmul_comm a b⟩, fun x y => ?_, ⟨0x4340000000000000, one, one, by decide +kernel⟩,
    ⟨0x7FE0000000000000, two, half, by decide +kernel⟩⟩
  rw [cmul, cmul, fmul_comm x.re, fmul_comm x.im, fadd_comm, fmul_comm x.re, fmul_comm x.im]

end Sys2Proof.Machine
end

section
/-! What the rounding does (40_numerics.md R111): the value of a pattern, the integer next to a real number, and the proof that
the pattern of the nearest grid point is the rounding of `Claims.IsRounding`. -/

namespace Sys2Proof.Machine

open Sys2Proof.Claims

/-! ### The real value of a pattern -/

/-- The sign as a factor. -/
noncomputable def signOf (neg : Bool) : ℝ := if neg then -1 else 1

@[simp] theorem signOf_false : signOf false = 1 := rfl
@[simp] theorem signOf_true : signOf true = -1 := rfl

@[simp] theorem abs_signOf (s : Bool) : |signOf s| = 1 := by
  cases s <;> simp

theorem signOf_xor (s t : Bool) : signOf (s != t) = signOf s * signOf t := by
  cases s <;> cases t <;> simp

@[simp] theorem signOf_not (s : Bool) : signOf (!s) = -signOf s := by
  cases s <;> simp

theorem signOf_ne_zero (s : Bool) : signOf s ≠ 0 := by
  cases s <;> simp

@[simp] theorem signOf_inv (s : Bool) : (signOf s)⁻¹ = signOf s := by
  cases s <;> simp

theorem signedUnits_eq (a : F64) : (signedUnits a : ℝ) = signOf (signBit a) * magnitude a := by
  unfold signedUnits
  cases signBit a <;> simp

theorem realValue_eq (a : F64) : realValue a = signOf (signBit a) * (magnitude a / 2 ^ 1074) := by
  rw [realValue, signedUnits_eq, mul_div_assoc]

@[simp] theorem realValue_fneg (a : F64) : realValue (fneg a) = -realValue a := by
  simp [realValue_eq]

theorem realValue_eq_zero_iff (a : F64) : realValue a = 0 ↔ isZero a = true := by
  simp [realValue_eq, signOf_ne_zero, magnitude_eq_zero_iff]

/-- The sum is exact in units of 2^-1074. -/
theorem realValue_add (a b : F64) : realValue a + realValue b = ((signedUnits a + signedUnits b : ℤ) : ℝ) / 2 ^ 1074 := by
  rw [realValue, realValue, Int.cast_add, add_div]

theorem realValue_add_eq_zero_iff (a b : F64) : realValue a + realValue b = 0 ↔ signedUnits a + signedUnits b = 0 := by
  rw [realValue_add, div_eq_zero_iff, Int.cast_eq_zero, or_iff_left (by positivity)]

theorem signBit_of_realValue_pos {a : F64} (h : 0 < realValue a) : signBit a = false := by
  by_contra hs
  rw [Bool.not_eq_false] at hs
  rw [realValue_eq, hs, signOf_true, neg_one_mul, neg_pos] at h
  exact absurd h (not_lt.mpr (by positivity))

theorem signBit_of_realValue_neg {a : F64} (h : realValue a < 0) : signBit a = true := by
  by_contra hs
  rw [Bool.not_eq_true] at hs
  rw [realValue_eq, hs, signOf_false, one_mul] at h
  exact absurd h (not_lt.mpr (by positivity))

/-! ### The pattern of a grid point -/

theorem expField_withSign (neg : Bool) {p : Nat} (hp : p ≤ infPattern) : expField (withSign neg p) = p / 2 ^ 52 := by
  have : p ≤ 2047 * 2 ^ 52 := hp
  rw [expField, toNat_withSign neg hp]
  split <;> omega

theorem fracField_withSign (neg : Bool) {p : Nat} (hp : p ≤ infPattern) : fracField (withSign neg p) = p % 2 ^ 52 := by
  rw [fracField, toNat_withSign neg hp]
  split <;> omega

theorem isFinite_withSign (neg : Bool) {p : Nat} (hp : p < infPattern) : isFinite (withSign neg p) = true := by
  have : p < 2047 * 2 ^ 52 := hp
  rw [isFinite, expField_withSign neg hp.le, bne_iff_ne]
  omega

theorem withSign_true {p : Nat} (hp : p ≤ infPattern) : withSign true p = fneg (withSign false p) := by
  apply fields_ext
  · rw [signBit_fneg, signBit_withSign _ hp, signBit_withSign _ hp, Bool.not_false]
  · rw [expField_fneg, expField_withSign _ hp, expField_withSign _ hp]
  · rw [fracField_fneg, fracField_withSign _ hp, fracField_withSign _ hp]

/-- `q` steps of `2^t` units: 53 significant bits, or the subnormal grid `t = 0`; the carry to `2^53` is allowed. -/
theorem magnitude_withSign (neg : Bool) {t q : Nat} (hq : q ≤ 2 ^ 53) (hn : t = 0 ∨ 2 ^ 52 ≤ q)
    (hp : t * 2 ^ 52 + q < infPattern) : magnitude (withSign neg (t * 2 ^ 52 + q)) = q * 2 ^ t := by
  rw [magnitude, expField_withSign neg hp.le, fracField_withSign neg hp.le]
  rcases Nat.lt_or_ge q (2 ^ 52) with hlt | hge
  · obtain rfl : t = 0 := by omega
    rw [if_pos (by omega), pow_zero]
    omega
  rcases Nat.lt_or_ge q (2 ^ 53) with hlt | hge'
  · have e : (t * 2 ^ 52 + q) / 2 ^ 52 = t + 1 := by omega
    have f : 2 ^ 52 + (t * 2 ^ 52 + q) % 2 ^ 52 = q := by omega
    rw [e, f, if_neg (by omega), Nat.add_sub_cancel, Nat.shiftLeft_eq]
  · have e : (t * 2 ^ 52 + q) / 2 ^ 52 = t + 1 + 1 := by omega
    have f : 2 ^ 52 + (t * 2 ^ 52 + q) % 2 ^ 52 = 2 ^ 52 := by omega
    have g : q = 2 ^ 52 * 2 := by omega
    rw [e, f, if_neg (by omega), Nat.add_sub_cancel, Nat.shiftLeft_eq, g, pow_succ' 2 t, mul_assoc]

/-- Every finite pattern is a point of one of the grids. -/
theorem exists_grid_of_isFinite {a : F64} (h : isFinite a = true) :
    ∃ t q, t ≤ 2045 ∧ q < 2 ^ 53 ∧ (t = 0 ∨ 2 ^ 52 ≤ q) ∧ magnitude a = q * 2 ^ t ∧ a = withSign (signBit a) (t * 2 ^ 52 + q) := by
  have hf := fracField_lt a
  have he := expField_lt a
  have inf : infPattern = 2047 * 2 ^ 52 := rfl
  have : expField a ≠ 2047 := by simpa [isFinite] using h
  have pattern {p : Nat} (hp : p = expField a * 2 ^ 52 + fracField a) : a = withSign (signBit a) p :=
    BitVec.eq_of_toNat_eq (by rw [toNat_withSign _ (by omega), hp, ← toNat_fields])
  by_cases h0 : expField a = 0
  · exact ⟨0, fracField a, by omega, by omega, .inl rfl, by simp [magnitude, h0], pattern (by omega)⟩
  · exact ⟨expField a - 1, 2 ^ 52 + fracField a, by omega, by omega, .inr (by omega), by simp [magnitude, h0, Nat.shiftLeft_eq],
      pattern (by omega)⟩

/-- A finite value is a whole number of steps of any grid, or lies below the 53-bit points of that grid. -/
theorem signedUnits_on_grid {a : F64} (h : isFinite a = true) (t : Nat) :
    (∃ k : ℤ, (signedUnits a : ℝ) / 2 ^ t = k) ∨ (t ≠ 0 ∧ (signedUnits a : ℝ) / 2 ^ t < 2 ^ 52) := by
  obtain ⟨e, q, -, hq, -, hm, -⟩ := exists_grid_of_isFinite h
  have hg : (0 : ℝ) < 2 ^ t := by positivity
  rcases Nat.lt_or_ge e t with hlt | hge
  · right
    have hle : signedUnits a ≤ (magnitude a : ℤ) := by unfold signedUnits; split <;> omega
    have hlt' : magnitude a < 2 ^ 52 * 2 ^ t := by
      calc magnitude a < 2 ^ 53 * 2 ^ e := hm ▸ Nat.mul_lt_mul_of_pos_right hq (by positivity)
        _ = 2 ^ 52 * 2 ^ (e + 1) := by ring
        _ ≤ 2 ^ 52 * 2 ^ t := Nat.mul_le_mul_left _ (Nat.pow_le_pow_right (by decide) hlt)
    refine ⟨by omega, (div_lt_iff₀ hg).mpr ?_⟩
    calc (signedUnits a : ℝ) ≤ (magnitude a : ℕ) := by exact_mod_cast hle
      _ < 2 ^ 52 * 2 ^ t := by exact_mod_cast hlt'
  · left
    refine ⟨(if signBit a then -1 else 1) * (q * 2 ^ (e - t)), ?_⟩
    rw [div_eq_iff hg.ne', signedUnits_eq, hm, ← Nat.sub_add_cancel hge, pow_add, Nat.add_sub_cancel]
    cases signBit a <;> simp [mul_assoc]

/-! ### The nearest grid point -/

/-- `q` is an integer nearest to `w`, and the even one of two. -/
def HalfEven (w : ℝ) (q : Nat) : Prop := |q - w| ≤ 1 / 2 ∧ (|q - w| = 1 / 2 → q % 2 = 0)

/-- The integer part, raised by one past the middle and at the middle when it is odd. -/
theorem halfEven_of_floor {w : ℝ} {f : Nat} {up : Prop} [Decidable up] (hf : (f : ℝ) ≤ w) (hf' : w < f + 1)
    (hup : up ↔ (f : ℝ) + 1 / 2 < w ∨ (w = f + 1 / 2 ∧ f % 2 = 1)) : HalfEven w (if up then f + 1 else f) := by
  by_cases h : up
  · rw [if_pos h]
    have half : (f : ℝ) + 1 / 2 ≤ w := by rcases hup.mp h with h | ⟨h, -⟩ <;> linarith
    have dist : |((f + 1 : ℕ) : ℝ) - w| = f + 1 - w := by
      push_cast
      exact abs_of_nonneg (by linarith)
    rw [HalfEven, dist]
    refine ⟨by linarith, fun tie => ?_⟩
    rcases hup.mp h with h | h
    · linarith
    · omega
  · rw [if_neg h]
    rw [hup, not_or, not_and, not_lt] at h
    have dist : |(f : ℝ) - w| = w - f := by rw [abs_sub_comm, abs_of_nonneg (by linarith)]
    rw [HalfEven, dist]
    refine ⟨by linarith, fun tie => ?_⟩
    have := h.2 (by linarith)
    omega

theorem halfEven_nearestEven (n : Nat) {d : Nat} (hd : 0 < d) : HalfEven (n / d) (nearestEven n d) := by
  have hd' : (0 : ℝ) < d := by exact_mod_cast hd
  have parts : (n : ℝ) / d = (n / d : ℕ) + (n % d : ℕ) / d := by
    rw [div_eq_iff hd'.ne', add_mul, div_mul_cancel₀ _ hd'.ne']
    exact_mod_cast (Nat.div_add_mod' n d).symm
  have frac_lt : ((n % d : ℕ) : ℝ) / d < 1 := (div_lt_one hd').mpr (by exact_mod_cast Nat.mod_lt n hd)
  have frac_nonneg : 0 ≤ ((n % d : ℕ) : ℝ) / d := by positivity
  have past : d < 2 * (n % d) ↔ 1 / 2 < ((n % d : ℕ) : ℝ) / d := by
    rw [div_lt_div_iff₀ two_pos hd', one_mul, mul_comm]
    exact_mod_cast Iff.rfl
  have middle : 2 * (n % d) = d ↔ ((n % d : ℕ) : ℝ) / d = 1 / 2 := by
    rw [div_eq_div_iff hd'.ne' two_ne_zero, one_mul, mul_comm]
    exact_mod_cast Iff.rfl
  rw [nearestEven]
  refine halfEven_of_floor (by linarith) (by linarith) ?_
  rw [past, middle, parts, add_lt_add_iff_left, add_right_inj]

/-- `w` is a magnitude in steps of the grid `2^t`, the grid that 53 bits ask for, and `q` is its nearest grid point. -/
structure OnGrid (w : ℝ) (t q : Nat) : Prop where
  normal : t = 0 ∨ 2 ^ 52 ≤ w
  top : w < 2 ^ 53
  nearest : HalfEven w q

namespace OnGrid

variable {w : ℝ} {t q : Nat}

theorem le_top (h : OnGrid w t q) : q ≤ 2 ^ 53 := by
  have near := (abs_le.mp h.nearest.1).2
  have : (q : ℝ) < (2 ^ 53 + 1 : ℕ) := by push_cast; linarith [h.top]
  exact Nat.lt_succ_iff.mp (by exact_mod_cast this)

theorem normal_point (h : OnGrid w t q) : t = 0 ∨ 2 ^ 52 ≤ q := by
  refine h.normal.imp_right fun hw => ?_
  have near := (abs_le.mp h.nearest.1).1
  have : ((2 ^ 52 : ℕ) : ℝ) < (q + 1 : ℕ) := by push_cast; linarith
  exact Nat.lt_succ_iff.mp (by exact_mod_cast this)

/-- No other whole number of steps is nearer, nor is any number below the 53-bit points. -/
theorem nearest_le (h : OnGrid w t q) {u : ℝ} (hu : (∃ k : ℤ, u = k) ∨ (t ≠ 0 ∧ u < 2 ^ 52)) :
    |q - w| ≤ |u - w| ∧ (|u - w| = |q - w| → u ≠ q → q % 2 = 0) := by
  obtain ⟨near, even⟩ := h.nearest
  have whole (k : ℤ) (hk : (k : ℝ) ≠ q) : 1 / 2 ≤ |(k : ℝ) - w| := by
    have apart : (1 : ℝ) ≤ |(k : ℝ) - q| := by
      have : (1 : ℤ) ≤ |k - q| := Int.one_le_abs (sub_ne_zero.mpr (by exact_mod_cast hk))
      exact_mod_cast this
    have : |(k : ℝ) - q| ≤ |(k : ℝ) - w| + |q - w| := by
      rw [abs_sub_comm (q : ℝ) w]
      exact abs_sub_le _ _ _
    linarith
  rcases hu with ⟨k, rfl⟩ | ⟨ht, hu⟩
  · by_cases hk : (k : ℝ) = q
    · rw [hk]
      exact ⟨le_rfl, fun _ h => absurd rfl h⟩
    · exact ⟨near.trans (whole k hk), fun tie _ => even (le_antisymm near (tie ▸ whole k hk))⟩
  · have hw := h.normal.resolve_left ht
    have below : |(2 ^ 52 : ℝ) - w| < |u - w| := by
      rw [abs_sub_comm, abs_sub_comm u, abs_of_nonneg (by linarith), abs_of_nonneg (by linarith)]
      linarith
    have edge : |(q : ℝ) - w| ≤ |(2 ^ 52 : ℝ) - w| := by
      by_cases hq : (2 ^ 52 : ℝ) = q
      · rw [hq]
      · have far := whole ((2 ^ 52 : ℕ) : ℤ)
        rw [show (((2 ^ 52 : ℕ) : ℤ) : ℝ) = 2 ^ 52 by norm_num] at far
        exact near.trans (far hq)
    exact ⟨edge.trans below.le, fun tie => absurd tie (edge.trans_lt below).ne'⟩

theorem le_point_iff (h : OnGrid w t q) : (2 ^ 53 - 1 / 2 : ℝ) ≤ w ↔ 2 ^ 53 ≤ q := by
  obtain ⟨near, even⟩ := h.nearest
  obtain ⟨below, above⟩ := abs_le.mp near
  constructor
  · intro hw
    by_contra hq
    have hlt : (q : ℝ) + 1 ≤ 2 ^ 53 := by exact_mod_cast Nat.not_le.mp hq
    have last : (q : ℝ) + 1 = 2 ^ 53 := by linarith
    have last' : q + 1 = 2 ^ 53 := by exact_mod_cast last
    have tie : |(q : ℝ) - w| = 1 / 2 := by
      rw [abs_sub_comm, abs_of_nonneg] <;> linarith
    have := even tie
    omega
  · intro hq
    have : ((2 ^ 53 : ℕ) : ℝ) ≤ q := by exact_mod_cast hq
    push_cast at this
    linarith

/-- The limit of R111 in units of 2^-1074, as steps of the highest grid. -/
theorem overflow_limit : (2 ^ 1024 - 2 ^ 970 : ℝ) * 2 ^ 1074 = (2 ^ 53 - 1 / 2) * 2 ^ 2045 := by
  have low : (2 : ℝ) ^ 1024 = 2 ^ 970 * 2 ^ 54 := by rw [← pow_add]
  have high : (2 : ℝ) ^ 2045 = 2 ^ 970 * 2 ^ 1074 * 2 := by rw [← pow_add, ← pow_succ]
  rw [low, high]
  generalize (2 : ℝ) ^ 970 = x
  generalize (2 : ℝ) ^ 1074 = y
  ring

theorem two_pow_step (t : Nat) : (2 : ℝ) ^ 53 * 2 ^ t = 2 ^ 52 * 2 ^ (t + 1) := by ring

/-- The magnitudes from `2^1024 - 2^970` on are those whose pattern reaches the infinity (R111). -/
theorem overflow_iff (h : OnGrid w t q) :
    (2 ^ 1024 - 2 ^ 970 : ℝ) ≤ w * 2 ^ t / 2 ^ 1074 ↔ infPattern ≤ t * 2 ^ 52 + q := by
  have limit : (2 ^ 1024 - 2 ^ 970 : ℝ) ≤ w * 2 ^ t / 2 ^ 1074 ↔ (2 ^ 53 - 1 / 2 : ℝ) * 2 ^ 2045 ≤ w * 2 ^ t := by
    rw [le_div_iff₀ (by positivity), overflow_limit]
  have hq := h.le_top
  have inf : infPattern = 2047 * 2 ^ 52 := rfl
  rw [limit]
  rcases Nat.lt_trichotomy t 2045 with ht | rfl | ht
  · have small : w * 2 ^ t < (2 ^ 53 - 1 / 2 : ℝ) * 2 ^ 2045 := by
      calc w * 2 ^ t < 2 ^ 53 * 2 ^ t := mul_lt_mul_of_pos_right h.top (by positivity)
        _ = 2 ^ 52 * 2 ^ (t + 1) := two_pow_step t
        _ ≤ 2 ^ 52 * 2 ^ 2045 := mul_le_mul_of_nonneg_left (pow_le_pow_right₀ one_le_two ht) (by positivity)
        _ < (2 ^ 53 - 1 / 2 : ℝ) * 2 ^ 2045 := mul_lt_mul_of_pos_right (by norm_num) (by positivity)
    exact iff_of_false (not_le.mpr small) (by omega)
  · rw [mul_le_mul_iff_left₀ (by positivity), h.le_point_iff]
    omega
  · have hw := h.normal.resolve_left (by omega)
    have large : (2 ^ 53 - 1 / 2 : ℝ) * 2 ^ 2045 ≤ w * 2 ^ t := by
      calc (2 ^ 53 - 1 / 2 : ℝ) * 2 ^ 2045 ≤ 2 ^ 53 * 2 ^ 2045 := by gcongr; norm_num
        _ = 2 ^ 52 * 2 ^ (2045 + 1) := two_pow_step 2045
        _ ≤ w * 2 ^ t := mul_le_mul hw (pow_le_pow_right₀ one_le_two ht) (by positivity) (by linarith)
    have := h.normal_point
    exact iff_of_true large (by omega)

end OnGrid
end Sys2Proof.Machine
end

section
/-! Rounding once, to nearest even, in the sense of `Claims.IsRounding` (40_numerics.md R111). -/

namespace Sys2Proof.Machine

open Sys2Proof.Claims

/-! ### What a rounding is -/

theorem fneg_posInf : fneg posInf = negInf := by decide

theorem isRounding_neg {x : ℝ} {r : F64} (h : IsRounding x r) : IsRounding (-x) (fneg r) := by
  obtain ⟨big, small⟩ := h
  refine ⟨fun hx => ?_, fun hx => ?_⟩
  · rw [abs_neg] at hx
    have hpos : (0 : ℝ) < 2 ^ 1024 - 2 ^ 970 := sub_pos.mpr (pow_lt_pow_right₀ one_lt_two (by decide))
    have hx0 : x ≠ 0 := abs_pos.mp (hpos.trans_le hx)
    rcases lt_or_gt_of_ne hx0 with h0 | h0
    · rw [big hx, if_pos h0, if_neg (by linarith), ← fneg_posInf, fneg_fneg]
    · rw [big hx, if_neg h0.not_gt, if_pos (by linarith), fneg_posInf]
  · rw [abs_neg] at hx
    obtain ⟨fin, best⟩ := small hx
    refine ⟨by rw [isFinite_fneg, fin], fun y hy => ?_⟩
    have mirror (z : ℝ) : |z - -x| = |-z - x| := by rw [abs_sub_comm]; congr 1; ring
    obtain ⟨le, tie⟩ := best (fneg y) (by rw [isFinite_fneg, hy])
    rw [realValue_fneg] at le tie
    rw [realValue_fneg, fracField_fneg, mirror, mirror, neg_neg]
    exact ⟨le, fun h hne => tie h fun heq => hne (by rw [← heq, neg_neg])⟩

theorem isRounding_withSign {x : ℝ} {p : Nat} (hp : p ≤ infPattern) (h : IsRounding x (withSign false p)) (neg : Bool) :
    IsRounding (signOf neg * x) (withSign neg p) := by
  cases neg with
  | false => rwa [signOf_false, one_mul]
  | true =>
    rw [signOf_true, neg_one_mul, withSign_true hp]
    exact isRounding_neg h

/-- Every finite value lies below the limit of R111. -/
theorem abs_realValue_lt {a : F64} (h : isFinite a = true) : |realValue a| < 2 ^ 1024 - 2 ^ 970 := by
  obtain ⟨t, q, ht, hq, -, hm, -⟩ := exists_grid_of_isFinite h
  have last : (q : ℝ) ≤ 2 ^ 53 - 1 := by
    rw [le_sub_iff_add_le]
    exact_mod_cast hq
  have size : |realValue a| = q * 2 ^ t / 2 ^ 1074 := by
    rw [realValue_eq, hm, abs_mul, abs_signOf, one_mul, Nat.cast_mul, Nat.cast_pow, Nat.cast_ofNat, abs_of_nonneg (by positivity)]
  rw [size, div_lt_iff₀ (by positivity), OnGrid.overflow_limit]
  calc (q : ℝ) * 2 ^ t ≤ (2 ^ 53 - 1) * 2 ^ 2045 :=
        mul_le_mul last (pow_le_pow_right₀ one_le_two ht) (by positivity) (by norm_num)
    _ < (2 ^ 53 - 1 / 2) * 2 ^ 2045 := mul_lt_mul_of_pos_right (by norm_num) (by positivity)

/-- A real number that some pattern stands for is rounded to a pattern of just that value. -/
theorem isRounding_eq_of_representable {x : ℝ} {r y : F64} (h : IsRounding x r) (hy : isFinite y = true)
    (hx : realValue y = x) : isFinite r = true ∧ realValue r = x := by
  obtain ⟨fin, best⟩ := h.2 (hx ▸ abs_realValue_lt hy)
  have := (best y hy).1
  rw [hx, sub_self, abs_zero, abs_nonpos_iff, sub_eq_zero] at this
  exact ⟨fin, this⟩

/-! ### Grid points -/

theorem OnGrid.isRounding {w : ℝ} {t q : Nat} (h : OnGrid w t q) (h0 : 0 ≤ w) :
    IsRounding (w * 2 ^ t / 2 ^ 1074) (withSign false (gridPattern t q)) := by
  have hx : 0 ≤ w * 2 ^ t / 2 ^ 1074 := by positivity
  rw [IsRounding, abs_of_nonneg hx, if_neg hx.not_gt, ← not_le, h.overflow_iff, not_le]
  refine ⟨fun full => ?_, fun fits => ?_⟩
  · rw [gridPattern, Nat.min_eq_right full]
    decide
  · rw [gridPattern, Nat.min_eq_left fits.le]
    have value : realValue (withSign false (t * 2 ^ 52 + q)) = q * 2 ^ t / 2 ^ 1074 := by
      rw [realValue_eq, signBit_withSign _ fits.le, magnitude_withSign _ h.le_top h.normal_point fits, signOf_false, one_mul]
      push_cast
      rfl
    have step : (0 : ℝ) < 2 ^ t / 2 ^ 1074 := by positivity
    have dist (u : ℝ) : |u * 2 ^ t / 2 ^ 1074 - w * 2 ^ t / 2 ^ 1074| = |u - w| * (2 ^ t / 2 ^ 1074) := by
      rw [← sub_div, ← sub_mul, mul_div_assoc, abs_mul, abs_of_pos step]
    refine ⟨isFinite_withSign _ fits, fun y hy => ?_⟩
    have steps : realValue y = signedUnits y / 2 ^ t * 2 ^ t / 2 ^ 1074 := by
      rw [realValue, div_mul_cancel₀ _ (by positivity)]
    obtain ⟨le, tie⟩ := h.nearest_le (signedUnits_on_grid hy t)
    rw [value, steps, dist, dist, fracField_withSign _ fits.le]
    refine ⟨mul_le_mul_of_nonneg_right le step.le, fun heq hne => ?_⟩
    have := tie (mul_right_cancel₀ step.ne' heq) (fun hu => hne (by rw [hu]))
    omega

theorem gridExponent_le (v : Nat) : gridExponent v = 0 ∨ 2 ^ (52 + gridExponent v) ≤ v := by
  rw [gridExponent]
  refine (Nat.eq_zero_or_pos (v.log2 - 52)).imp_right fun h => ?_
  rw [Nat.add_sub_cancel' (by omega)]
  exact Nat.log2_self_le (by rintro rfl; simp at h)

theorem lt_gridExponent (v : Nat) : v < 2 ^ (53 + gridExponent v) :=
  Nat.lt_log2_self.trans_le (Nat.pow_le_pow_right (by decide) (by rw [gridExponent]; omega))

/-- `roundUnits` takes the grid that 53 bits ask for. -/
theorem onGrid_roundUnits (n : Nat) {d : Nat} (hd : 0 < d) :
    OnGrid (n / (d * 2 ^ gridExponent (n / d))) (gridExponent (n / d)) (nearestEven n (d <<< gridExponent (n / d))) := by
  set t := gridExponent (n / d) with ht
  have hd' : (0 : ℝ) < d * 2 ^ t := by positivity
  refine ⟨?_, (div_lt_iff₀ hd').mpr ?_, ?_⟩
  · refine (gridExponent_le _).imp_right fun h => (le_div_iff₀ hd').mpr ?_
    have : 2 ^ 52 * (d * 2 ^ t) ≤ n := by
      rw [mul_left_comm, mul_comm, ← pow_add]
      exact (Nat.le_div_iff_mul_le hd).mp h
    exact_mod_cast this
  · have : n < 2 ^ 53 * (d * 2 ^ t) := by
      rw [mul_left_comm, mul_comm, ← pow_add]
      exact (Nat.div_lt_iff_lt_mul hd).mp (lt_gridExponent _)
    exact_mod_cast this
  · have := halfEven_nearestEven n (d := d <<< t) (by rw [Nat.shiftLeft_eq]; positivity)
    rw [Nat.shiftLeft_eq] at this ⊢
    exact_mod_cast this

/-- `roundUnits` rounds a fraction of units once, and the sign goes with it. -/
theorem isRounding_roundUnits (neg : Bool) (n : Nat) {d : Nat} (hd : 0 < d) :
    IsRounding (signOf neg * (n / d / 2 ^ 1074)) (withSign neg (roundUnits n d)) := by
  have h := (onGrid_roundUnits n hd).isRounding (by positivity)
  rw [← div_div, div_mul_cancel₀ _ (by positivity)] at h
  exact isRounding_withSign (roundUnits_le n d) h neg

end Sys2Proof.Machine
end

section
/-! Exact values, and the rounding of each operation (40_numerics.md R111 to R116). -/

namespace Sys2Proof.Machine

open Sys2Proof.Claims

/-! ### Exact values -/

/-- A whole number of at most 53 bits on any grid is a value. -/
theorem exists_magnitude {t : Nat} (ht : t ≤ 2045) {q : Nat} (hq : q < 2 ^ 53) :
    ∃ y : F64, isFinite y = true ∧ signBit y = false ∧ magnitude y = q * 2 ^ t := by
  have inf : infPattern = 2047 * 2 ^ 52 := rfl
  have point {t q : Nat} (ht : t ≤ 2045) (hq : q < 2 ^ 53) (hn : t = 0 ∨ 2 ^ 52 ≤ q) :
      ∃ y : F64, isFinite y = true ∧ signBit y = false ∧ magnitude y = q * 2 ^ t := by
    have hp : t * 2 ^ 52 + q < infPattern := by omega
    exact ⟨_, isFinite_withSign false hp, signBit_withSign _ hp.le, magnitude_withSign _ hq.le hn hp⟩
  induction t generalizing q with
  | zero => exact point ht hq (.inl rfl)
  | succ t ih =>
    rcases Nat.lt_or_ge q (2 ^ 52) with hlt | hge
    · obtain ⟨y, hf, hs, hm⟩ := ih (by omega) (q := q * 2) (by omega)
      exact ⟨y, hf, hs, by rw [hm, pow_succ', mul_assoc]⟩
    · exact point ht hq (.inr hge)

theorem exists_realValue (neg : Bool) {t q : Nat} (ht : t ≤ 2045) (hq : q < 2 ^ 53) :
    ∃ y : F64, isFinite y = true ∧ realValue y = signOf neg * (q * 2 ^ t / 2 ^ 1074) := by
  obtain ⟨y, hf, hs, hm⟩ := exists_magnitude ht hq
  have value : realValue y = q * 2 ^ t / 2 ^ 1074 := by
    rw [realValue_eq, hs, hm, signOf_false, one_mul, Nat.cast_mul, Nat.cast_pow, Nat.cast_ofNat]
  cases neg with
  | false => exact ⟨y, hf, by rw [value, signOf_false, one_mul]⟩
  | true => exact ⟨fneg y, by rw [isFinite_fneg, hf], by rw [realValue_fneg, value, signOf_true, neg_one_mul]⟩

/-- A finite value rounds to itself. -/
theorem withSign_roundUnits_magnitude {a : F64} (h : isFinite a = true) :
    withSign (signBit a) (roundUnits (magnitude a) 1) = a := by
  obtain ⟨t, q, ht, hq, hn, hm, ha⟩ := exists_grid_of_isFinite h
  have inf : infPattern = 2047 * 2 ^ 52 := rfl
  have grid : gridExponent (q * 2 ^ t) = t := by
    have fits : q * 2 ^ t < 2 ^ (53 + t) := by
      rw [pow_add]
      exact Nat.mul_lt_mul_of_pos_right hq (by positivity)
    have below : gridExponent (q * 2 ^ t) ≤ t := by
      rcases gridExponent_le (q * 2 ^ t) with h | h
      · omega
      · have := (Nat.pow_lt_pow_iff_right (by decide)).mp (h.trans_lt fits)
        omega
    have above : t ≤ gridExponent (q * 2 ^ t) := by
      rcases hn with rfl | hn
      · exact Nat.zero_le _
      · have normal : 2 ^ (52 + t) ≤ q * 2 ^ t := by
          rw [pow_add]
          exact Nat.mul_le_mul_right _ hn
        have := (Nat.pow_lt_pow_iff_right (by decide)).mp (normal.trans_lt (lt_gridExponent _))
        omega
    exact le_antisymm below above
  have point : nearestEven (q * 2 ^ t) (1 <<< t) = q := by
    have : 0 < 2 ^ t := by positivity
    rw [Nat.shiftLeft_eq, one_mul, nearestEven, Nat.mul_div_cancel _ this, Nat.mul_mod_left]
    exact if_neg (by omega)
  rw [roundUnits, Nat.div_one, hm, grid, point, gridPattern, Nat.min_eq_left (by omega), ← ha]

/-! ### Sum, product and quotient -/

theorem unitOne_pos : 0 < unitOne := by
  unfold unitOne
  positivity

theorem unitOne_cast : (unitOne : ℝ) = 2 ^ 1074 := by rw [unitOne, Nat.cast_pow, Nat.cast_ofNat]

theorem signOf_natAbs (x : ℤ) : signOf (decide (x < 0)) * (x.natAbs : ℝ) = x := by
  rw [Nat.cast_natAbs, Int.cast_abs]
  rcases lt_or_ge x 0 with h | h
  · have : (x : ℝ) < 0 := by exact_mod_cast h
    rw [decide_eq_true h, signOf_true, abs_of_neg this, neg_one_mul, neg_neg]
  · have : (0 : ℝ) ≤ x := by exact_mod_cast h
    rw [decide_eq_false h.not_gt, signOf_false, abs_of_nonneg this, one_mul]

theorem isRounding_fadd {a b : F64} (ha : isFinite a = true) (hb : isFinite b = true) (hx : realValue a + realValue b ≠ 0) :
    IsRounding (realValue a + realValue b) (fadd a b) := by
  rw [fadd_of_isFinite ha hb, if_neg (mt (realValue_add_eq_zero_iff a b).mpr hx), realValue_add]
  have h := isRounding_roundUnits (decide (signedUnits a + signedUnits b < 0)) (signedUnits a + signedUnits b).natAbs one_pos
  rwa [Nat.cast_one, div_one, ← mul_div_assoc, signOf_natAbs] at h

theorem fadd_of_isZero {a b : F64} (ha : isZero a = true) (hb : isFinite b = true) (hz : isZero b = false) : fadd a b = b := by
  have zero : signedUnits a = 0 := by simp [signedUnits, (magnitude_eq_zero_iff a).mpr ha]
  have pos := magnitude_pos hz
  have size : (signedUnits b).natAbs = magnitude b := by rw [signedUnits]; split <;> omega
  have sign : decide (signedUnits b < 0) = signBit b := by
    unfold signedUnits
    cases signBit b <;> simp [pos]
  rw [fadd_of_isFinite (isFinite_of_isZero ha) hb, zero, zero_add, if_neg (by omega), size, sign, withSign_roundUnits_magnitude hb]

theorem isRounding_fmul {a b : F64} (ha : isFinite a = true) (hb : isFinite b = true) :
    IsRounding (realValue a * realValue b) (fmul a b) := by
  have h := isRounding_roundUnits (signBit a != signBit b) (magnitude a * magnitude b) unitOne_pos
  rw [fmul_of_isFinite ha hb, realValue_eq, realValue_eq, mul_mul_mul_comm, ← signOf_xor, div_mul_div_comm, ← div_div]
  rwa [Nat.cast_mul, unitOne_cast] at h

theorem isRounding_fdiv {a b : F64} (ha : isFinite a = true) (hb : isFinite b = true) (hz : isZero b = false) :
    IsRounding (realValue a / realValue b) (fdiv a b) := by
  have h := isRounding_roundUnits (signBit a != signBit b) (magnitude a * unitOne) (magnitude_pos hz)
  rw [fdiv_of_isFinite ha hb hz, realValue_eq, realValue_eq, mul_div_mul_comm, div_eq_mul_inv (signOf _), signOf_inv, ← signOf_xor,
    div_div_div_cancel_right₀ (by positivity)]
  rwa [Nat.cast_mul, unitOne_cast, mul_div_right_comm, mul_div_cancel_right₀ _ (by positivity)] at h

/-! ### Integers -/

theorem isFinite_i2f_and_realValue {n : Nat} (hn : n ≤ 8192) : isFinite (i2f n) = true ∧ realValue (i2f n) = n := by
  have h := isRounding_roundUnits false (n * unitOne) one_pos
  rw [signOf_false, one_mul, Nat.cast_one, div_one, Nat.cast_mul, unitOne_cast, mul_div_cancel_right₀ _ (by positivity)] at h
  obtain ⟨y, hf, hy⟩ := exists_realValue false (t := 1074) (q := n) (by decide) (by omega)
  rw [signOf_false, one_mul, mul_div_cancel_right₀ _ (by positivity)] at hy
  exact isRounding_eq_of_representable h hf hy

theorem isZero_i2f {n : Nat} (h0 : 1 ≤ n) (hn : n ≤ 8192) : isZero (i2f n) = false := by
  rw [Bool.eq_false_iff, ne_eq, ← realValue_eq_zero_iff, (isFinite_i2f_and_realValue hn).2, Nat.cast_eq_zero]
  omega

/-- A quotient by a power of two that is not subnormal is a value (R114). -/
theorem exists_realValue_div_two_pow {a : F64} {k : Nat} (ha : isFinite a = true)
    (hx : (2 : ℝ) ^ (-1022 : ℤ) ≤ |realValue a / 2 ^ k|) : ∃ y : F64, isFinite y = true ∧ realValue y = realValue a / 2 ^ k := by
  obtain ⟨t, q, ht, hq, -, hm, -⟩ := exists_grid_of_isFinite ha
  have value : realValue a / 2 ^ k = signOf (signBit a) * (q * 2 ^ t / 2 ^ 1074 / 2 ^ k) := by
    rw [realValue_eq, hm, Nat.cast_mul, Nat.cast_pow, Nat.cast_ofNat, mul_div_assoc]
  have fits : k ≤ t := by
    rw [value, abs_mul, abs_signOf, one_mul, abs_of_nonneg (by positivity), zpow_neg, inv_le_iff_one_le_mul₀ (by positivity),
      div_div, ← mul_div_right_comm, one_le_div (by positivity), ← pow_add] at hx
    have hlt : (2 : ℝ) ^ (1074 + k) < 2 ^ (1075 + t) := by
      calc (2 : ℝ) ^ (1074 + k) ≤ q * 2 ^ t * 2 ^ 1022 := by exact_mod_cast hx
        _ < 2 ^ 53 * 2 ^ t * 2 ^ 1022 := by gcongr; exact_mod_cast hq
        _ = 2 ^ (1075 + t) := by rw [← pow_add, ← pow_add]; congr 1; omega
    have := (pow_lt_pow_iff_right₀ one_lt_two).mp hlt
    omega
  obtain ⟨y, hf, hy⟩ := exists_realValue (signBit a) (t := t - k) (by omega) hq
  refine ⟨y, hf, ?_⟩
  rw [hy, value, div_right_comm, ← Nat.sub_add_cancel fits, pow_add, Nat.add_sub_cancel, ← mul_assoc,
    mul_div_cancel_right₀ _ (by positivity)]

/-! ### The square root -/

/-- The digits of the root, as long as `2^k` steps reach past it. -/
theorem sqrtBits_spec (m : Nat) {k r : Nat} (hr : r ^ 2 ≤ m) (hr' : m < (r + 2 ^ k) ^ 2) :
    sqrtBits m k r ^ 2 ≤ m ∧ m < (sqrtBits m k r + 1) ^ 2 := by
  induction k generalizing r with
  | zero => exact ⟨hr, hr'⟩
  | succ k ih =>
    rw [sqrtBits]
    split
    · next h => exact ih h (by rwa [add_assoc, ← two_mul, ← pow_succ'])
    · next h => exact ih hr (Nat.not_le.mp h)

theorem log2_half_bounds {m : Nat} (hm : m ≠ 0) : (2 ^ (m.log2 / 2)) ^ 2 ≤ m ∧ m < (2 ^ (m.log2 / 2 + 1)) ^ 2 := by
  rw [← pow_mul, ← pow_mul]
  exact ⟨(Nat.pow_le_pow_right (by decide) (by omega)).trans (Nat.log2_self_le hm),
    Nat.lt_log2_self.trans_le (Nat.pow_le_pow_right (by decide) (by omega))⟩

/-- The bits of the root that `roundSqrt` takes are its whole number of steps of `2^t`. -/
theorem sqrtBits_floor {m t : Nat} (hm : m ≠ 0) (ht : t ≤ m.log2 / 2 + 1) :
    (sqrtBits (m >>> (2 * t)) (m.log2 / 2 + 1 - t) 0 * 2 ^ t) ^ 2 ≤ m ∧
      m < ((sqrtBits (m >>> (2 * t)) (m.log2 / 2 + 1 - t) 0 + 1) * 2 ^ t) ^ 2 := by
  have floor : m >>> (2 * t) = m / (2 ^ t) ^ 2 := by rw [Nat.shiftRight_eq_div_pow, ← pow_mul, mul_comm]
  have steps : 0 < (2 ^ t) ^ 2 := by positivity
  have bits : m >>> (2 * t) < (0 + 2 ^ (m.log2 / 2 + 1 - t)) ^ 2 := by
    rw [zero_add, floor, Nat.div_lt_iff_lt_mul steps, ← mul_pow, ← pow_add, Nat.sub_add_cancel ht]
    exact (log2_half_bounds hm).2
  obtain ⟨le, lt⟩ := sqrtBits_spec (m >>> (2 * t)) (Nat.zero_le _) bits
  rw [mul_pow, mul_pow, ← Nat.le_div_iff_mul_le steps, ← Nat.div_lt_iff_lt_mul steps, ← floor]
  exact ⟨le, lt⟩

/-- `roundSqrt` takes the grid that 53 bits of the root ask for. -/
theorem exists_onGrid_roundSqrt {m : Nat} (hm : m ≠ 0) :
    ∃ t q, roundSqrt m = gridPattern t q ∧ OnGrid (√m / 2 ^ t) t q := by
  set t := gridExponent (2 ^ (m.log2 / 2)) with ht
  have ht' : t = m.log2 / 2 - 52 := by rw [ht, gridExponent, Nat.log2_two_pow]
  set f := sqrtBits (m >>> (2 * t)) (m.log2 / 2 + 1 - t) 0
  obtain ⟨low, high⟩ := log2_half_bounds hm
  have hg : (0 : ℝ) < 2 ^ t := by positivity
  have floor : (f * 2 ^ t) ^ 2 ≤ m ∧ m < ((f + 1) * 2 ^ t) ^ 2 := sqrtBits_floor hm (by omega)
  have middle : (((2 * f + 1) ^ 2 <<< (2 * t) : ℕ) : ℝ) = 4 * ((f + 1 / 2) * 2 ^ t) ^ 2 := by
    rw [Nat.shiftLeft_eq, mul_comm 2 t, pow_mul]
    push_cast
    ring
  have past : (2 * f + 1) ^ 2 <<< (2 * t) < 4 * m ↔ (f : ℝ) + 1 / 2 < √m / 2 ^ t := by
    rw [lt_div_iff₀ hg, Real.lt_sqrt (by positivity), ← mul_lt_mul_iff_right₀ (zero_lt_four (α := ℝ)), ← middle]
    exact_mod_cast Iff.rfl
  have tie : (2 * f + 1) ^ 2 <<< (2 * t) = 4 * m ↔ √(m : ℝ) / 2 ^ t = f + 1 / 2 := by
    rw [div_eq_iff hg.ne', Real.sqrt_eq_iff_eq_sq (by positivity) (by positivity), eq_comm,
      ← mul_right_inj' (four_ne_zero (α := ℝ)), ← middle]
    exact_mod_cast Iff.rfl
  refine ⟨t, _, rfl, ?_, (div_lt_iff₀ hg).mpr ?_, halfEven_of_floor ((le_div_iff₀ hg).mpr ?_) ((div_lt_iff₀ hg).mpr ?_) ?_⟩
  · refine (gridExponent_le (2 ^ (m.log2 / 2))).imp_right fun h => (le_div_iff₀ hg).mpr (Real.le_sqrt_of_sq_le ?_)
    rw [← pow_add]
    exact_mod_cast (Nat.pow_le_pow_left h 2).trans low
  · rw [Real.sqrt_lt' (by positivity), ← pow_add]
    exact_mod_cast high.trans_le (Nat.pow_le_pow_left (Nat.pow_le_pow_right (by decide) (by omega)) 2)
  · exact Real.le_sqrt_of_sq_le (by exact_mod_cast floor.1)
  · exact (Real.sqrt_lt' (by positivity)).mpr (by exact_mod_cast floor.2)
  · rw [past, tie]

theorem isRounding_roundSqrt {m : Nat} (hm : m ≠ 0) : IsRounding (√m / 2 ^ 1074) (withSign false (roundSqrt m)) := by
  obtain ⟨t, q, hq, hg⟩ := exists_onGrid_roundSqrt hm
  have h := hg.isRounding (by positivity)
  rwa [div_mul_cancel₀ _ (by positivity), ← hq] at h

theorem sqrt_div_eq_sqrt_mul_div {x u : ℝ} (hx : 0 ≤ x) (hu : 0 < u) : √(x / u) = √(x * u) / u := by
  rw [Real.sqrt_eq_iff_eq_sq (by positivity) (by positivity), div_pow, Real.sq_sqrt (by positivity), sq,
    mul_div_mul_right _ _ hu.ne']

theorem isRounding_fsqrt {a : F64} (ha : isFinite a = true) (h0 : 0 < realValue a) :
    IsRounding (√(realValue a)) (fsqrt a) := by
  have hs := signBit_of_realValue_pos h0
  have hz : isZero a = false := Bool.eq_false_iff.mpr (mt (realValue_eq_zero_iff a).mpr h0.ne')
  have h := isRounding_roundSqrt (Nat.mul_ne_zero (magnitude_pos hz).ne' unitOne_pos.ne')
  rw [Nat.cast_mul, unitOne_cast] at h
  rwa [fsqrt_of_positive ha hz hs, realValue_eq, hs, signOf_false, one_mul,
    sqrt_div_eq_sqrt_mul_div (Nat.cast_nonneg _) (by positivity)]

end Sys2Proof.Machine
end

section
/-! The statements of 40_numerics.md on the operations, the integers and the constants (R112 to R116, R119, R120). -/

namespace Sys2Proof.Machine

open Sys2Proof.Claims

/-! ### The operations -/

/-- Settles O22: the exact sum is a whole number of units, and a finite value rounds to itself. -/
theorem faddRoundsTheExactSum : Obligations.FaddRoundsTheExactSum := by
  intro a b
  refine ⟨fun h => ⟨fadd_of_isNaN h, ?_⟩, isRounding_fadd, fun ha hb hx => ?_, fun ha hb hz => ?_, fun ha hb => ?_,
    fadd_of_isInf, fun _ => rfl⟩
  · rw [fsub, fadd_of_isNaN (by rwa [isNaN_fneg])]
  · rw [fadd_of_isFinite ha hb, if_pos ((realValue_add_eq_zero_iff a b).mp hx)]
  · exact ⟨fadd_of_isZero ha hb hz, by rw [fadd_comm, fadd_of_isZero ha hb hz]⟩
  · exact ⟨fadd_of_isInf_of_isFinite ha hb, by rw [fadd_comm, fadd_of_isInf_of_isFinite ha hb]⟩

/-- Settles O23: the product of two magnitudes in units of 2^-1074 is a fraction of such units. -/
theorem fmulRoundsTheExactProduct : Obligations.FmulRoundsTheExactProduct := by
  intro a b
  refine ⟨fmul_of_isNaN, signBit_fmul, fun ha hb _ _ => isRounding_fmul ha hb, fun ha hb => ?_, fun ha hb hz => ?_,
    fun ha hb => ?_⟩
  · have zero : isZero (fmul a b) = true := by
      rw [fmul_of_isFinite (isFinite_of_isZero ha) hb, (magnitude_eq_zero_iff a).mpr ha, zero_mul, roundUnits_zero,
        isZero_withSign_zero]
    exact ⟨zero, by rwa [fmul_comm]⟩
  · have inf : isInf (fmul a b) = true := by simp [fmul_of_isInf ha hb, hz]
    exact ⟨inf, by rwa [fmul_comm]⟩
  · have invalid : fmul b a = qNaN := by rw [fmul_of_isInf hb (isNaN_of_isFinite (isFinite_of_isZero ha)), if_pos ha]
    exact ⟨by rw [fmul_comm, invalid], invalid⟩

/-- Settles O24: a quotient by a power of two that is not subnormal is a value, and a value rounds to itself. -/
theorem fdivRoundsTheExactQuotient : Obligations.FdivRoundsTheExactQuotient := by
  refine ⟨fun a b => ⟨fdiv_of_isNaN, signBit_fdiv, isRounding_fdiv, fun hn hz hb => ?_, fun ha hb => ?_, fdiv_of_isInf,
    fun ha hb => ?_, fun ha hb => ?_⟩, fun n h1 hn => ⟨(isFinite_i2f_and_realValue hn).1, isZero_i2f h1 hn⟩, fun a k ha hk hx => ?_⟩
  · obtain ha | ha := isFinite_or_isInf hn
    · simp [fdiv_of_isZero ha hb, hz]
    · simp [fdiv_of_isInf_of_isFinite ha (isFinite_of_isZero hb)]
  · rw [fdiv_of_isZero (isFinite_of_isZero ha) hb, if_pos ha]
  · rw [fdiv_of_isFinite_of_isInf ha hb, isZero_withSign_zero]
  · rw [fdiv_of_isInf_of_isFinite ha hb, isInf_withSign_infPattern]
  · have bound : 2 ^ k ≤ 8192 := Nat.pow_le_pow_right (by decide) hk
    obtain ⟨fin, value⟩ := isFinite_i2f_and_realValue bound
    have h := isRounding_fdiv ha fin (isZero_i2f (Nat.one_le_two_pow) bound)
    rw [value, Nat.cast_pow, Nat.cast_ofNat] at h
    obtain ⟨y, hy, hv⟩ := exists_realValue_div_two_pow ha hx
    exact (isRounding_eq_of_representable h hy hv).2

/-- Settles O25: a square is a NaN or has sign 0, and so has a sum of such. -/
theorem fsqrtRoundsTheExactRoot : Obligations.FsqrtRoundsTheExactRoot := by
  refine ⟨fun a => ⟨isRounding_fsqrt, by decide, by decide, by decide, by decide, fun _ h0 => ?_, fsqrt_of_isNaN⟩,
    fun c => fadd_nonneg (fmul_self_nonneg c.re) (fmul_self_nonneg c.im)⟩
  have hz : isZero a = false := Bool.eq_false_iff.mpr (mt (realValue_eq_zero_iff a).mpr h0.ne)
  exact fsqrt_of_negative hz (signBit_of_realValue_neg h0)

/-- Settles O26: the masks of `fneg` and `fabs` bit by bit, and a number of at most 53 bits is a value. -/
theorem negAbsAndIntegerConversion : Obligations.NegAbsAndIntegerConversion := by
  have masks : ∀ i < 64, (0x8000000000000000 : F64).getLsbD i = decide (i = 63) ∧
      (0x7FFFFFFFFFFFFFFF : F64).getLsbD i = !decide (i = 63) := by decide
  refine ⟨fun a i hi => ?_, fun n hn => ?_⟩
  · obtain ⟨sign, rest⟩ := masks i hi
    rw [fneg, fabs, BitVec.getLsbD_xor, BitVec.getLsbD_and, sign, rest]
    by_cases h : i = 63 <;> simp [h]
  · obtain ⟨fin, value⟩ := isFinite_i2f_and_realValue hn
    exact ⟨fin, value, signBit_withSign _ (roundUnits_le _ _)⟩

/-! ### The constants -/

/-- The nearest pattern of a fraction, found by the model's own rounding. -/
theorem isRounding_of_roundUnits (n d : Nat) (r : F64) (h : 0 < d ∧ withSign false (roundUnits (n * unitOne) d) = r) :
    IsRounding (n / d) r := by
  obtain ⟨hd, h⟩ := h
  have := isRounding_roundUnits false (n * unitOne) hd
  rwa [h, signOf_false, one_mul, Nat.cast_mul, unitOne_cast, mul_div_right_comm, mul_div_cancel_right₀ _ (by positivity)] at this

/-- Settles O27: each literal is what the model's rounding makes of its decimal fraction. -/
theorem literalsAreNearest : Obligations.LiteralsAreNearest := by
  refine ⟨?_, ?_, ?_, ?_, ?_, ?_, ?_, ?_, ?_, ?_, ?_, ?_, rfl, rfl⟩
  · exact_mod_cast isRounding_of_roundUnits 54 100 0x3FE147AE147AE148 (by decide +kernel)
  · exact_mod_cast isRounding_of_roundUnits 46 100 0x3FDD70A3D70A3D71 (by decide +kernel)
  · exact_mod_cast isRounding_of_roundUnits 42 100 0x3FDAE147AE147AE1 (by decide +kernel)
  · exact_mod_cast isRounding_of_roundUnits 1 2 0x3FE0000000000000 (by decide +kernel)
  · exact_mod_cast isRounding_of_roundUnits 8 100 0x3FB47AE147AE147B (by decide +kernel)
  · exact_mod_cast isRounding_of_roundUnits 2156 10000 0x3FCB98C7E28240B8 (by decide +kernel)
  · exact_mod_cast isRounding_of_roundUnits 4166 10000 0x3FDAA9930BE0DED3 (by decide +kernel)
  · exact_mod_cast isRounding_of_roundUnits 2773 10000 0x3FD1BF487FCB923A (by decide +kernel)
  · exact_mod_cast isRounding_of_roundUnits 836 10000 0x3FB566CF41F212D7 (by decide +kernel)
  · exact_mod_cast isRounding_of_roundUnits 69 10000 0x3F7C432CA57A786C (by decide +kernel)
  · simpa using isRounding_of_roundUnits 2 1 0x4000000000000000 (by decide +kernel)
  · simpa using isRounding_of_roundUnits 1 1 0x3FF0000000000000 (by decide +kernel)

/-- A real number less than half a step from the inner point `q` of the grid of `2^-e`. -/
theorem isRounding_of_near {x : ℝ} {r : F64} {e q : Nat} (he : e ≤ 1074) (hq : 2 ^ 52 < q) (hq' : q < 2 ^ 53)
    (low : (q : ℝ) - 1 / 2 < x * 2 ^ e) (high : x * 2 ^ e < q + 1 / 2) (h : withSign false (gridPattern (1074 - e) q) = r) :
    IsRounding x r := by
  have bottom : (2 : ℝ) ^ 52 + 1 ≤ q := by exact_mod_cast hq
  have top : (q : ℝ) + 1 ≤ 2 ^ 53 := by exact_mod_cast hq'
  have near : |q - x * 2 ^ e| < 1 / 2 := abs_lt.mpr ⟨by linarith, by linarith⟩
  have grid : OnGrid (x * 2 ^ e) (1074 - e) q := ⟨.inr (by linarith), by linarith, near.le, fun tie => absurd tie near.ne⟩
  have := grid.isRounding (by linarith)
  rwa [h, mul_assoc, ← pow_add, Nat.add_sub_cancel' he, mul_div_cancel_right₀ _ (by positivity)] at this

/-- A multiple of π that twenty decimals keep within half a step of the inner point `q` of the grid of `2^-e`. -/
theorem isRounding_mul_pi (c e q : Nat) {r : F64}
    (h : e ≤ 1074 ∧ 2 ^ 52 < q ∧ q < 2 ^ 53 ∧ 2 * q * 10 ^ 20 < c * 2 ^ e * (2 * 314159265358979323846) + 10 ^ 20 ∧
      c * 2 ^ e * (2 * 314159265358979323847) < (2 * q + 1) * 10 ^ 20 ∧ withSign false (gridPattern (1074 - e) q) = r) :
    IsRounding (c * Real.pi) r := by
  obtain ⟨he, hq, hq', low, high, hr⟩ := h
  have low' : (2 * q * 10 ^ 20 : ℝ) < c * 2 ^ e * (2 * 314159265358979323846) + 10 ^ 20 := by exact_mod_cast low
  have high' : (c * 2 ^ e * (2 * 314159265358979323847) : ℝ) < (2 * q + 1) * 10 ^ 20 := by exact_mod_cast high
  have scale : (0 : ℝ) ≤ c * 2 ^ e := by positivity
  have above := mul_le_mul_of_nonneg_left Real.pi_gt_d20.le scale
  have below := mul_le_mul_of_nonneg_left Real.pi_lt_d20.le scale
  exact isRounding_of_near he hq hq' (by linarith) (by linarith) hr

/-- Settles O28: the multiples of π lie well inside the half steps around their patterns. -/
theorem piConstantsAreNearest : Obligations.PiConstantsAreNearest := by
  have doubled {a b : F64} (h : signedUnits a = 2 * signedUnits b) : realValue a = 2 * realValue b := by
    rw [realValue, realValue, h, Int.cast_mul, Int.cast_ofNat, mul_div_assoc]
  refine ⟨?_, ?_, ?_, ?_, ?_, rfl, by decide +kernel, doubled (by decide +kernel), doubled (by decide +kernel), by decide +kernel⟩
  · simpa using isRounding_mul_pi 1 51 0x1921FB54442D18 (r := 0x400921FB54442D18) (by decide +kernel)
  · exact isRounding_mul_pi 2 50 0x1921FB54442D18 (by decide +kernel)
  · exact isRounding_mul_pi 4 49 0x1921FB54442D18 (by decide +kernel)
  · exact isRounding_mul_pi 6 48 0x12D97C7F3321D2 (by decide +kernel)
  · exact isRounding_mul_pi 8 48 0x1921FB54442D18 (by decide +kernel)

end Sys2Proof.Machine
end

section
/-! Sums and products with a zero (40_numerics.md R112, R113). -/

namespace Sys2Proof.Machine

/-- The zeros are two patterns (R110). -/
theorem isZero_iff (a : F64) : isZero a = true ↔ a = posZero ∨ a = negZero := by
  constructor
  · intro h
    obtain ⟨he, hf⟩ : expField a = 0 ∧ fracField a = 0 := by simpa [isZero] using h
    cases hs : signBit a with
    | false => exact .inl (fields_ext hs he hf)
    | true => exact .inr (fields_ext hs he hf)
  · rintro (rfl | rfl) <;> rfl

theorem truncToNat_of_isZero {a : F64} (h : isZero a = true) : truncToNat a = 0 := by
  rw [truncToNat, (magnitude_eq_zero_iff a).mpr h, Nat.zero_div]

theorem fmul_posZero_posZero : fmul posZero posZero = posZero := by decide +kernel

theorem isZero_fmul {a b : F64} (ha : isZero a = true) (hb : isFinite b = true) : isZero (fmul a b) = true := by
  obtain ⟨-, -, -, zero, -⟩ := fmulRoundsTheExactProduct a b
  exact (zero ha hb).1

theorem fadd_posZero_of_isZero {b : F64} (hb : isZero b = true) : fadd posZero b = posZero := by
  obtain rfl | rfl := (isZero_iff b).mp hb <;> decide +kernel

theorem fsub_posZero_of_isZero {b : F64} (hb : isZero b = true) : fsub posZero b = posZero :=
  fadd_posZero_of_isZero (by rwa [isZero_fneg])

theorem fadd_one_of_isZero {b : F64} (hb : isZero b = true) : fadd one b = one := by
  rw [fadd_comm, fadd_of_isZero hb (by decide) (by decide)]

theorem fsub_one_of_isZero {b : F64} (hb : isZero b = true) : fsub one b = one :=
  fadd_one_of_isZero (by rwa [isZero_fneg])

theorem isFinite_fadd_of_isZero {a b : F64} (ha : isZero a = true) (hb : isFinite b = true) : isFinite (fadd a b) = true := by
  cases hz : isZero b with
  | false => rwa [fadd_of_isZero ha hb hz]
  | true => obtain rfl | rfl := (isZero_iff a).mp ha <;> obtain rfl | rfl := (isZero_iff b).mp hz <;> decide +kernel

end Sys2Proof.Machine
end

section
/-! `SIN` and `COS` (41_trig_kernel.md): the sign laws and the values at zero, of the machine's own functions and of the
transcribed algorithm. -/

namespace Sys2Proof.Machine

open Sys2Proof.Claims

/-! ### The machine's own functions (R142, R143, R150) -/

/-- R142 for both signs. -/
theorem sinF_eq_of_fabs (x : F64) : sinF x = if signBit x then fneg (sinF (fabs x)) else sinF (fabs x) := by
  simp [sinF]

/-- R143. -/
theorem cosF_fabs (x : F64) : cosF (fabs x) = cosF x := by
  simp [cosF]

theorem isFinite_sinF (x : F64) : isFinite (sinF x) = true := by
  have ofMagnitude : isFinite (sinF (fabs x)) = true := by
    rw [sinF, signBit_fabs, if_neg Bool.false_ne_true]
    split
    · decide
    · exact isFinite_finitePattern _
  rw [sinF_eq_of_fabs]
  split
  · rwa [isFinite_fneg]
  · exact ofMagnitude

theorem isFinite_cosF (x : F64) : isFinite (cosF x) = true := by
  unfold cosF
  split
  · decide
  · exact isFinite_finitePattern _

/-- Settles O30: the magnitude is the same on both sides of each law. -/
theorem kernelContractHolds : Obligations.KernelContractHolds := by
  refine ⟨fun x _ => ⟨isFinite_sinF x, isFinite_cosF x, fun hs => ?_, fun hs => ?_, (cosF_fabs x).symm⟩, rfl, rfl, rfl, rfl⟩
  · rw [sinF_eq_of_fabs, hs, if_neg Bool.false_ne_true]
  · rw [sinF_eq_of_fabs, hs, if_pos rfl]

/-! ### The commands (R149, R151, R152) -/

theorem sinEffect_of_isFinite {s : State} (h : isFinite s.fa0 = true) : sinEffect s = { s with fr0 := sinF s.fa0 } := by
  rw [sinEffect, if_pos h]

theorem cosEffect_of_isFinite {s : State} (h : isFinite s.fa0 = true) : cosEffect s = { s with fr0 := cosF s.fa0 } := by
  rw [cosEffect, if_pos h]

theorem sinEffect_of_not_isFinite {s : State} (h : isFinite s.fa0 = false) :
    sinEffect s = { s with fr0 := Config.anyTrig s.freeCount, freeCount := s.freeCount + 1 } := by
  simp [sinEffect, h, State.takeFree]

theorem cosEffect_of_not_isFinite {s : State} (h : isFinite s.fa0 = false) :
    cosEffect s = { s with fr0 := Config.anyTrig s.freeCount, freeCount := s.freeCount + 1 } := by
  simp [cosEffect, h, State.takeFree]

/-- Settles O31: no check of `SIN` or `COS` can fail, so each has its effect. -/
theorem sinCosCommands : Obligations.SinCosCommands := by
  have sin (s : State) : exec .sin s = .next (succeed (sinEffect s)) := exec_eq_perform .sin s
  have cos (s : State) : exec .cos s = .next (succeed (cosEffect s)) := exec_eq_perform .cos s
  refine ⟨rfl, rfl, fun s => ⟨fun h => ?_, fun h => ?_⟩⟩
  · rw [sin, cos, sinEffect_of_isFinite h, cosEffect_of_isFinite h]
    exact ⟨rfl, rfl⟩
  · rw [sin, cos, sinEffect_of_not_isFinite h, cosEffect_of_not_isFinite h]
    exact ⟨rfl, rfl⟩

/-! ### The transcribed algorithm (R144 to R148) -/

theorem fneg_if_not (neg : Bool) (r : F64) : (if !neg then fneg r else r) = fneg (if neg then fneg r else r) := by
  cases neg <;> simp

/-- The sign of the argument enters the sine once, as a flip of the result. -/
theorem kernelSin_fneg (kn : KernelNumbers) (large : F64 → Nat × F64) (x : F64) :
    kernelSin kn large (fneg x) = fneg (kernelSin kn large x) := by
  simp only [kernelSin, fabs_fneg, signBit_fneg, Bool.not_bne, fneg_if_not]

/-- The cosine reads the magnitude only. -/
theorem kernelCos_fneg (kn : KernelNumbers) (large : F64 → Nat × F64) (x : F64) :
    kernelCos kn large (fneg x) = kernelCos kn large x := by
  simp only [kernelCos, fabs_fneg]

/-! ### The transcribed algorithm at zero, with finite numbers (R150) -/

/-- With finite coefficients the polynomial at zero is finite: each turn adds a coefficient to a zero. -/
theorem isFinite_hornerPoly_of_isZero {c : F64 × F64 × F64 × F64 × F64 × F64} {z : F64} (hz : isZero z = true)
    (hc : [c.1, c.2.1, c.2.2.1, c.2.2.2.1, c.2.2.2.2.1, c.2.2.2.2.2].all isFinite = true) :
    isFinite (hornerPoly c z) = true := by
  have turn {a b : F64} (ha : isFinite a = true) (hb : isFinite b = true) : isFinite (fadd (fmul a z) b) = true :=
    isFinite_fadd_of_isZero (fmul_comm z a ▸ isZero_fmul hz ha) hb
  simp only [List.all_cons, List.all_nil, Bool.and_true, Bool.and_eq_true] at hc
  obtain ⟨h0, h1, h2, h3, h4, h5⟩ := hc
  exact turn (turn (turn (turn (turn h0 h1) h2) h3) h4) h5

section
variable {kn : KernelNumbers} (h : NumbersFinite kn)
include h

/-- A zero reduces to quadrant 0 and the residual angle `+0` (R144). -/
theorem reduceArgument_posZero (large : F64 → Nat × F64) : reduceArgument kn large posZero = (0, posZero) := by
  obtain ⟨reduction, -⟩ := h
  simp only [List.all_cons, List.all_nil, Bool.and_true, Bool.and_eq_true] at reduction
  obtain ⟨h4, ha, hb, hc⟩ := reduction
  have zero {p : F64} (hp : isFinite p = true) : isZero (fmul posZero p) = true := isZero_fmul rfl hp
  have small : posZero.toNat < largeArgument.toNat := by decide
  have y0 : i2f 0 = posZero := by decide +kernel
  simp [reduceArgument, small, reduceSmall, truncToNat_of_isZero (zero h4), y0, fsub_posZero_of_isZero, zero, ha, hb, hc]

/-- `+0 + (+0)·(+0)·poly = +0` (R147). -/
theorem sineType_posZero : sineType kn posZero = posZero := by
  obtain ⟨-, coefficients⟩ := h
  have poly := isFinite_hornerPoly_of_isZero (z := posZero) rfl (List.all_eq_true.mp coefficients kn.sinC (by simp))
  rw [sineType, fmul_posZero_posZero, fmul_posZero_posZero, fadd_posZero_of_isZero (isZero_fmul rfl poly)]

/-- `1 − (+0)/2 + (+0)·poly = 1` (R147). -/
theorem cosineType_posZero : cosineType kn posZero = one := by
  obtain ⟨-, coefficients⟩ := h
  have poly := isFinite_hornerPoly_of_isZero (z := posZero) rfl (List.all_eq_true.mp coefficients kn.cosC (by simp))
  have square : isZero (fmul half posZero) = true := by decide +kernel
  rw [cosineType, fmul_posZero_posZero, fmul_posZero_posZero, fsub_one_of_isZero square,
    fadd_one_of_isZero (isZero_fmul rfl poly)]

theorem kernelSin_posZero (large : F64 → Nat × F64) : kernelSin kn large posZero = posZero := by
  have cleared : fabs posZero = posZero := rfl
  have positive : signBit posZero = false := rfl
  simp [kernelSin, cleared, positive, reduceArgument_posZero h, sineType_posZero h]

theorem kernelCos_posZero (large : F64 → Nat × F64) : kernelCos kn large posZero = one := by
  have cleared : fabs posZero = posZero := rfl
  simp [kernelCos, cleared, reduceArgument_posZero h, cosineType_posZero h]

end

/-- Settles O32: the values at `-0` follow from those at `+0` by the sign laws. -/
theorem kernelAlgorithmSignsAndZero : Obligations.KernelAlgorithmSignsAndZero := by
  refine fun kn large => ⟨fun x => ⟨kernelSin_fneg kn large x, kernelCos_fneg kn large x⟩, fun h => ?_⟩
  have flip : negZero = fneg posZero := rfl
  have sine := kernelSin_posZero h large
  have cosine := kernelCos_posZero h large
  exact ⟨sine, by rw [flip, kernelSin_fneg, sine], cosine, by rw [flip, kernelCos_fneg, cosine]⟩

end Sys2Proof.Machine
end

section
/-! The two bit reversals bit by bit, that `brev` is `brevn` at the bit length of its operand, and what each gives when it is
applied twice (42_bit_reversal.md R160 to R163, R167). -/

namespace Sys2Proof.Machine

/-! ### `brevn` -/

theorem testBit_brevn_of_le (v : Nat) {n j : Nat} (hj : n ≤ j) : (brevn v n).testBit j = false :=
  Nat.testBit_eq_false_of_lt ((brevn_lt v n).trans_le (Nat.pow_le_pow_right (by decide) hj))

/-- Bit `j` of the result is bit `n - 1 - j` of the value (R161). -/
theorem testBit_brevn (v n j : Nat) : (brevn v n).testBit j = (decide (j < n) && v.testBit (n - 1 - j)) := by
  induction n generalizing v with
  | zero => simp
  | succ n ih =>
    rcases Nat.lt_or_ge n j with hj | hj
    · rw [testBit_brevn_of_le v hj, decide_eq_false (by omega), Bool.false_and]
    · rw [brevn_succ, Nat.mul_comm, Nat.testBit_two_pow_mul_add _ (brevn_lt _ _)]
      rcases hj.lt_or_eq with hj | rfl
      · have shift : n + 1 - 1 - j = n - 1 - j + 1 := by omega
        rw [if_pos hj, ih, shift, Nat.testBit_succ, decide_eq_true hj, decide_eq_true (Nat.lt_succ_of_lt hj)]
      · simp [Nat.testBit_zero]

theorem testBit_brevn_mirror (v : Nat) {n j : Nat} (hj : j < n) : (brevn v n).testBit (n - 1 - j) = v.testBit j := by
  have back : n - 1 - (n - 1 - j) = j := by omega
  rw [testBit_brevn, decide_eq_true (by omega), Bool.true_and, back]

/-- At a fixed size, bit reversal is an involution on the values of that size (R166). -/
theorem brevn_brevn {v n : Nat} (hv : v < 2 ^ n) : brevn (brevn v n) n = v := by
  refine Nat.eq_of_testBit_eq fun j => ?_
  rcases Nat.lt_or_ge j n with hj | hj
  · rw [testBit_brevn, decide_eq_true hj, Bool.true_and, testBit_brevn_mirror v hj]
  · rw [testBit_brevn_of_le _ hj, Nat.testBit_eq_false_of_lt (hv.trans_le (Nat.pow_le_pow_right (by decide) hj))]

/-- Trailing zeros of the value become leading zeros of the result. -/
theorem brevn_two_pow_mul (u n k : Nat) : brevn (2 ^ k * u) (n + k) = brevn u n := by
  induction k with
  | zero => simp
  | succ k ih =>
    rw [pow_succ', mul_assoc, ← add_assoc, brevn_succ, Nat.mul_mod_right, Nat.mul_div_cancel_left _ (by decide), ih,
      Nat.zero_mul, Nat.zero_add]

/-! ### Bit lengths -/

theorem size_eq_size_half_add_one {v : Nat} (hv : v ≠ 0) : v.size = (v / 2).size + 1 := by
  conv_lhs => rw [← Nat.bit_bodd_div2 v]
  rw [Nat.size_bit (by rwa [Nat.bit_bodd_div2]), Nat.div2_val]

/-- The low bit of an odd value becomes the leading bit, so the bit length stays. -/
theorem size_brevn_of_odd {u : Nat} (hu : u % 2 = 1) : (brevn u u.size).size = u.size := by
  have length := size_eq_size_half_add_one (v := u) (by omega)
  refine Nat.le_antisymm (Nat.size_le.mpr (brevn_lt u u.size)) ?_
  rw [length, brevn_succ, hu, Nat.one_mul]
  exact Nat.lt_size.mpr (Nat.le_add_right _ _)

/-! ### `brev` -/

/-- The loop of `brev` ends after as many turns as the value has bits, if it may take that many. -/
theorem brevLoop_eq_brevnLoop {m v : Nat} (h : v.size ≤ m) (r : Nat) : brevLoop m v r = brevnLoop v.size v r := by
  induction m generalizing v r with
  | zero =>
    obtain rfl := Nat.size_eq_zero.mp (Nat.le_zero.mp h)
    rfl
  | succ m ih =>
    by_cases hv : v = 0
    · subst hv
      simp [brevnLoop]
    · have length := size_eq_size_half_add_one hv
      rw [brevLoop_step hv, length, brevnLoop, if_neg hv, ih (by omega)]

/-- R160: `brev` is `brevn` at the bit length of a 32-bit value. -/
theorem brev_eq_brevn {v : Nat} (hv : v < 2 ^ 32) : brev v = brevn v v.size :=
  brevLoop_eq_brevnLoop (Nat.size_le.mpr hv) 0

theorem brev_lt {v : Nat} (hv : v < 2 ^ 32) : brev v < 2 ^ 32 := by
  rw [brev_eq_brevn hv]
  exact (brevn_lt v v.size).trans_le (Nat.pow_le_pow_right (by decide) (Nat.size_le.mpr hv))

/-- `brev` loses the trailing zeros, which lie above the reversed value's leading bit. -/
theorem brev_two_pow_mul {u k : Nat} (hu : u ≠ 0) (h : 2 ^ k * u < 2 ^ 32) : brev (2 ^ k * u) = brev u := by
  have hu32 : u < 2 ^ 32 := (Nat.le_mul_of_pos_left u (Nat.two_pow_pos k)).trans_lt h
  have length : (2 ^ k * u).size = u.size + k := by rw [Nat.mul_comm, ← Nat.shiftLeft_eq, Nat.size_shiftLeft hu]
  rw [brev_eq_brevn h, brev_eq_brevn hu32, length, brevn_two_pow_mul]

theorem brev_brev_of_odd {u : Nat} (hu : u % 2 = 1) (h : u < 2 ^ 32) : brev (brev u) = u := by
  rw [brev_eq_brevn (brev_lt h), brev_eq_brevn h, size_brevn_of_odd hu, brevn_brevn u.lt_size_self]

/-- R167: applied twice, `brev` drops the trailing zeros. -/
theorem brev_brev_two_pow_mul {u k : Nat} (hu : u % 2 = 1) (h : 2 ^ k * u < 2 ^ 32) : brev (brev (2 ^ k * u)) = u := by
  rw [brev_two_pow_mul (by omega) h]
  exact brev_brev_of_odd hu ((Nat.le_mul_of_pos_left u (Nat.two_pow_pos k)).trans_lt h)

theorem brev_brev_eq_self_iff {v : Nat} (hv : v < 2 ^ 32) : brev (brev v) = v ↔ v = 0 ∨ v % 2 = 1 := by
  constructor
  · intro h
    refine or_iff_not_imp_left.mpr fun h0 => ?_
    obtain ⟨k, u, hu, rfl⟩ := Nat.exists_eq_two_pow_mul_odd h0
    rw [brev_brev_two_pow_mul (Nat.odd_iff.mp hu) hv] at h
    rwa [← h, ← Nat.odd_iff]
  · rintro (rfl | hodd)
    · rfl
    · exact brev_brev_of_odd hodd hv

/-! ### The check of `BREVN` (R163) -/

theorem checkBrevn_eq_none {s : State} (h : s.arg1.toNat ≤ 32) : checkBrevn s = none := by
  simp [checkBrevn, h]

theorem checkBrevn_eq_some {s : State} (h : 32 < s.arg1.toNat) : checkBrevn s = some .operand := by
  simp [checkBrevn, h]

/-! ### Obligations -/

/-- Settles O33: `BREV` has no check, and its result is `brevn` at the bit length of `ARG0`. -/
theorem brevReversesWithinBitLength : Obligations.BrevReversesWithinBitLength := by
  refine ⟨rfl, fun s => ⟨succeed (brevEffect s), exec_eq_perform .brev s, rfl, ?_⟩⟩
  have result : (succeed (brevEffect s)).res.toNat = brevn s.arg0.toNat s.arg0.toNat.size := by
    rw [← brev_eq_brevn s.arg0.isLt]
    exact Nat.mod_eq_of_lt (brev_lt s.arg0.isLt)
  rw [result]
  exact ⟨fun j hj => testBit_brevn_mirror _ hj, fun j hj => testBit_brevn_of_le _ hj⟩

/-- Settles O34: an odd value keeps its bit length under `brev`, and only the trailing zeros are lost. -/
theorem brevTwiceDropsTrailingZeros : Obligations.BrevTwiceDropsTrailingZeros :=
  ⟨fun _ _ hu h => brev_brev_two_pow_mul hu h, fun _ hv => brev_brev_eq_self_iff hv, fun _ hv => brevn_brevn hv⟩

/-- Settles O35: a size of at most 32 passes the check, and the result then fits in `RES`. -/
theorem brevnReversesLowBits : Obligations.BrevnReversesLowBits := by
  refine ⟨rfl, fun v n => ⟨fun j hj => testBit_brevn_mirror v hj, fun j hj => testBit_brevn_of_le v hj⟩,
    fun s => ⟨fun h => ?_, fun h => ?_⟩⟩
  · have fits : brevn s.arg0.toNat s.arg1.toNat < 2 ^ 32 := (brevn_lt _ _).trans_le (Nat.pow_le_pow_right (by decide) h)
    refine ⟨succeed (brevnEffect s), ?_, rfl, Nat.mod_eq_of_lt fits⟩
    rw [exec_eq_perform, failedCheck, checkBrevn_eq_none h, perform_none, effectOf]
  · rw [exec_eq_perform, failedCheck, checkBrevn_eq_some h, perform_some, raise]

end Sys2Proof.Machine
end

section
/-! What a command that produces a sequence leaves in the two working buffers (10_state.md R33, R34), and `REORDER`
(42_bit_reversal.md R164, R166). -/

namespace Sys2Proof.Machine

open Sys2Proof.Claims

/-! ### Commands that write the other buffer and flip (R34) -/

theorem registers_produce (s : State) (w : Memory Word → Memory Word) : registers (s.produce w) = registers s := by
  rw [State.produce]
  cases s.other <;> rfl

/-- The buffer that was the working one is the other one after the flip, and holds what it held. -/
theorem z_produce (s : State) (w : Memory Word → Memory Word) (i : Nat) : (s.produce w).z i = s.x i := by
  simp [State.z, State.x, State.entry, word_produce, (other_ne_working s).symm]

/-- An entry of the new working buffer is the one that the write put there. -/
theorem x_produce {s : State} {w : Memory Word → Memory Word} {i : Nat} {c : C64}
    (hre : (w (s.mem s.other)).lookup (2 * i) = some c.re) (him : (w (s.mem s.other)).lookup (2 * i + 1) = some c.im) :
    (s.produce w).x i = c := by
  simp [State.x, State.entry, word_produce, hre, him]

/-- A command that writes the other buffer below `N` and flips changes nothing else. -/
theorem produced_of_tailKept {s : State} {w : Memory Word → Memory Word} (h : TailKept s (s.produce w)) :
    Produced s (succeed (s.produce w)) := by
  refine ⟨rfl, State.produce_sel s w, registers_produce s w, fun n k hk => ?_, fun j => freq_produce s w j⟩
  rw [word_succeed]
  by_cases hn : n = s.other
  · obtain ⟨-, tail⟩ := h
    obtain ⟨ha, hb⟩ := tail k (Nat.not_lt.mp fun hlt => hk ⟨hn, hlt⟩)
    rw [hn, State.other]
    split
    · exact ha
    · exact hb
  · rw [word_produce, if_neg hn]

/-! ### The checks of a command on one sequence -/

theorem checkLength_of_validLen {s : State} (h : ValidLen s) : checkLength s = none := (checkLength_eq_none s).mpr h

theorem checkLength_of_not_validLen {s : State} (h : ¬ ValidLen s) : checkLength s = some .length :=
  (checkLength_eq_some s).mpr h

/-! ### `REORDER` -/

theorem exec_reorder_of_validLen {s : State} (h : ValidLen s) : exec .reorder s = .next (succeed (reorderEffect s)) := by
  rw [exec_eq_perform, failedCheck, checkLength_of_validLen h, perform_none, effectOf]

theorem produced_reorder (s : State) : Produced s (succeed (reorderEffect s)) := produced_of_tailKept (tailKept_reorder s)

/-- Entry `i` goes to the index `brevn(i, LOG2N)`, where no other entry goes (R164). -/
theorem x_reorderEffect {s : State} {i : Nat} (hi : i < s.len) : (reorderEffect s).x (brevn i s.log2n.toNat) = s.x i := by
  obtain ⟨hre, him⟩ := lookup_loop_storeC_hit (g := fun i => brevn i s.log2n.toNat) (fun _ _ hi hj e => brevn_inj hi hj e) s.x
    (s.mem s.other) hi
  exact x_produce hre him

/-- R166: the second `REORDER` takes every entry back. -/
theorem x_reorderEffect_twice {s : State} {i : Nat} (hi : i < s.len) : (reorderEffect (reorderEffect s)).x i = s.x i := by
  have there := brevn_lt i s.log2n.toNat
  have back : (reorderEffect s).log2n = s.log2n := State.produce_log2n s _
  calc (reorderEffect (reorderEffect s)).x i
      = (reorderEffect (reorderEffect s)).x (brevn (brevn i s.log2n.toNat) (reorderEffect s).log2n.toNat) := by
        rw [back, brevn_brevn hi]
    _ = (reorderEffect s).x (brevn i s.log2n.toNat) := x_reorderEffect (by rwa [State.len, back])
    _ = s.x i := x_reorderEffect hi

/-! ### Obligations -/

/-- Settles O36: the bit reversal that moves the entries is an involution, and the flip too. -/
theorem reorderTwiceRestores : Obligations.ReorderTwiceRestores := by
  refine ⟨fun v n hv => ⟨brevn_lt v n, brevn_brevn hv⟩, fun s h => ?_⟩
  have same_length : (succeed (reorderEffect s)).log2n = s.log2n := State.produce_log2n s _
  have h' : ValidLen (succeed (reorderEffect s)) := by rwa [ValidLen, same_length]
  refine ⟨_, _, exec_reorder_of_validLen h, exec_reorder_of_validLen h', ?_, fun i hi => ?_⟩
  · simp [reorderEffect]
  · rw [reorderEffect_succeed, succeed_succeed, x_succeed, x_reorderEffect_twice hi]

/-- Settles O37: the frame is that of every command that produces a sequence. -/
theorem reorderPermutes : Obligations.ReorderPermutes := by
  refine ⟨rfl, fun s => ⟨fun h => ⟨_, exec_reorder_of_validLen h, produced_reorder s, fun i hi => ?_, fun i => ?_⟩,
    fun h => ?_⟩⟩
  · rw [x_succeed, x_reorderEffect hi]
  · rw [z_succeed, reorderEffect, z_produce]
  · rw [exec_eq_perform, failedCheck, checkLength_of_not_validLen h, perform_some, raise]

end Sys2Proof.Machine
end

section
/-! How often each command flips `SEL` (42_bit_reversal.md R164; 44_transform.md R204 to R212; 46_analyzer.md R277). -/

namespace Sys2Proof.Machine

/-! ### Counting flips -/

/-- `SEL` after `n` flips, by parity. -/
def selAfter (sel : Bool) (n : Nat) : Bool := sel != decide (n % 2 = 1)

@[simp] theorem selAfter_zero (sel : Bool) : selAfter sel 0 = sel := by simp [selAfter]

@[simp] theorem selAfter_one (sel : Bool) : selAfter sel 1 = !sel := by simp [selAfter]

theorem selAfter_selAfter (sel : Bool) (m n : Nat) : selAfter (selAfter sel m) n = selAfter sel (m + n) := by
  rcases Nat.mod_two_eq_zero_or_one m with hm | hm <;> rcases Nat.mod_two_eq_zero_or_one n with hn | hn <;>
    simp [selAfter, Nat.add_mod, hm, hn]

/-! ### Effects with flips -/

theorem sel_produce (s : State) (w : Memory Word → Memory Word) : (s.produce w).sel = selAfter s.sel 1 := by simp

/-- R206: `REORDER` flips once, and so does each of the `LOG2N` stages. -/
theorem sel_fftEffect (s : State) : (fftEffect s).sel = selAfter s.sel (s.log2n.toNat + 1) :=
  loop_induction (fun n (t : State) => t.sel = selAfter s.sel (n + 1)) (sel_produce s _) fun i _ t h => by
    have stage : (stageEffect (i + 1) t).sel = selAfter t.sel 1 := sel_produce t _
    rw [stage, h, selAfter_selAfter]

/-- R209. -/
theorem sel_ifftEffect (s : State) : (ifftEffect s).sel = selAfter s.sel (s.log2n.toNat + 2) := by
  have log2n : (revcopyEffect s).log2n = s.log2n := State.produce_log2n s _
  rw [ifftEffect, scaleEffect, State.putEntries_sel, sel_fftEffect, log2n, revcopyEffect, sel_produce, selAfter_selAfter]
  congr 1
  omega

/-- R212. -/
theorem sel_convEffect (s : State) : (convEffect s).sel = selAfter s.sel (3 * s.log2n.toNat + 4) := by
  simp only [convEffect, sel_ifftEffect, sel_fftEffect, cmulvEffect, xchgEffect, State.putEntries_sel, State.putEntries_log2n,
    fftEffect_log2n, selAfter_selAfter]
  congr 1
  omega

/-- R277: only the transform flips. -/
theorem sel_analyzeEffect (windowed : Bool) (s : State) :
    (analyzeEffect windowed s).sel = selAfter s.sel (s.log2n.toNat + 1) := by
  cases windowed <;> simp [analyzeEffect, magEffect, liftEffect, wapplyEffect, sel_fftEffect]

/-! ### Effects without a flip -/

theorem sel_setRes (s : State) (v : U32) : ({ s with res := v } : State).sel = s.sel := rfl

theorem sel_sinEffect (s : State) : (sinEffect s).sel = s.sel := by
  unfold sinEffect
  split <;> rfl

theorem sel_cosEffect (s : State) : (cosEffect s).sel = s.sel := by
  unfold cosEffect
  split <;> rfl

theorem sel_wgenEffect (kind : WindowKind) (s : State) : (wgenEffect kind s).sel = s.sel := State.putWords_sel s _ _ _

theorem sel_magEffect (s : State) : (magEffect s).sel = s.sel := State.putWords_sel s _ _ _

theorem sel_xchgEffect (s : State) : (xchgEffect s).sel = s.sel := by simp [xchgEffect]

/-! ### Every command -/

/-- A command whose checks succeed flips `SEL` as often as its rule says. -/
theorem sel_effectOf {i : Instr} {s : State} (h : failedCheck i s = none) :
    (effectOf i s).sel = selAfter s.sel (Claims.flips s.log2n.toNat i) := by
  have unflipped (hsel : (effectOf i s).sel = s.sel) (hi : Claims.flips s.log2n.toNat i = 0 := by rfl) :
      (effectOf i s).sel = selAfter s.sel (Claims.flips s.log2n.toNat i) := by
    rw [hi, hsel, selAfter_zero]
  cases i with
  | reorder | stage | revcopy => exact sel_produce s _
  | fft => exact sel_fftEffect s
  | ifft => exact sel_ifftEffect s
  | conv => exact sel_convEffect s
  | analyze a =>
    simp only [effectOf, failedCheck] at h ⊢
    generalize a.toNat = n at h ⊢
    rcases n with _ | _ | n
    · exact sel_analyzeEffect false s
    · exact sel_analyzeEffect true s
    · cases h
  | nop => exact unflipped rfl
  | brev | brevn | resolve | asblock => exact unflipped (sel_setRes s _)
  | cmul | twld => exact unflipped (State.setResult_sel s _)
  | sin => exact unflipped (sel_sinEffect s)
  | cos => exact unflipped (sel_cosEffect s)
  | scale | cmulv | lift => exact unflipped (State.putEntries_sel s _ _ _)
  | xchg => exact unflipped (sel_xchgEffect s)
  | wapply => exact unflipped (State.putWords_sel s _ _ _)
  | mag => exact unflipped (sel_magEffect s)
  | wgen a =>
    refine unflipped ?_
    simp only [effectOf]
    cases windowKind a with
    | none => rfl
    | some kind => exact sel_wgenEffect kind s

theorem thenCheck_eq_some (x y : Option Err) (e : Err) :
    thenCheck x y = some e ↔ x = some e ∨ x = none ∧ y = some e := by
  cases x <;> simp

/-- A check that fails reports an error. -/
theorem failedCheck_ne_ok (i : Instr) (s : State) : failedCheck i s ≠ some .ok := by
  have length : checkLength s ≠ some .ok := by simp [checkLength]
  have twoSequences : checkTwoSequences s ≠ some .ok := by
    simp [checkTwoSequences, thenCheck_eq_some, length, checkOperandLength]
  have windowed : checkWindowed s ≠ some .ok := by simp [checkWindowed, thenCheck_eq_some, length, checkWindowMatch]
  cases i with
  | brevn => simp [failedCheck, checkBrevn]
  | twld => simp [failedCheck, thenCheck_eq_some, length, checkTwiddleIndex]
  | stage a => simp [failedCheck, thenCheck_eq_some, length, checkStage]
  | reorder | fft | revcopy | scale | ifft | lift | mag => exact length
  | cmulv | xchg | conv => exact twoSequences
  | wapply => exact windowed
  | wgen a =>
    simp only [failedCheck]
    split
    · decide
    · simp [checkWindowLength]
  | analyze a =>
    simp only [failedCheck]
    split
    · exact length
    · exact windowed
    · decide
  | _ => nofun

/-! ### Obligations -/

/-- Settles O21: a failing command changes nothing but `ERR`, and the flips of a succeeding one are those of its effect. -/
theorem selFlipsPerCommand : Obligations.SelFlipsPerCommand := by
  intro i s t h
  obtain ⟨e, he, rfl⟩ | ⟨hc, rfl⟩ := exec_cases h
  · refine ⟨fun hok => ?_, fun _ => rfl⟩
    obtain rfl : e = .ok := hok
    exact absurd he (failedCheck_ne_ok i s)
  · exact ⟨fun _ => sel_effectOf hc, fun hne => absurd rfl hne⟩

end Sys2Proof.Machine
end

section
/-! A quotient of units by a power of two in one rounding or in two (40_numerics.md R111, R121). -/

namespace Sys2Proof.Machine

/-! ### Fractions that are rounded alike -/

theorem nearestEven_mul_right {c : Nat} (hc : 0 < c) (n d : Nat) : nearestEven (n * c) (d * c) = nearestEven n d := by
  simp only [nearestEven, Nat.mul_div_mul_right _ _ hc, Nat.mul_mod_mul_right, ← mul_assoc, Nat.mul_lt_mul_right hc,
    Nat.mul_left_inj hc.ne']

/-- Equal fractions of units are rounded alike. -/
theorem roundUnits_mul_right {c : Nat} (hc : 0 < c) (n d : Nat) : roundUnits (n * c) (d * c) = roundUnits n d := by
  simp only [roundUnits, Nat.mul_div_mul_right _ _ hc, Nat.shiftLeft_eq, Nat.mul_right_comm d c, nearestEven_mul_right hc]

theorem roundUnits_mul_self_right {c : Nat} (hc : 0 < c) (n : Nat) : roundUnits (n * c) c = roundUnits n 1 := by
  rw [← roundUnits_mul_right hc n 1, one_mul]

/-! ### The grid of a quotient by a power of two -/

theorem gridExponent_div_two_pow (v k : Nat) : gridExponent (v / 2 ^ k) = gridExponent v - k := by
  rw [gridExponent, gridExponent, Nat.log2_eq_log_two, Nat.log2_eq_log_two, Nat.log_div_base_pow, Nat.sub_right_comm]

theorem gridExponent_mono {v w : Nat} (h : v ≤ w) : gridExponent v ≤ gridExponent w := by
  rw [gridExponent, gridExponent, Nat.log2_eq_log_two, Nat.log2_eq_log_two]
  exact Nat.sub_le_sub_right (Nat.log_mono_right h) _

/-- While the quotient keeps 53 bits, dividing by `2^k` moves the grid by `k` and leaves the grid point. -/
theorem roundUnits_two_pow {v k : Nat} (hk : k ≤ gridExponent v) :
    roundUnits v (2 ^ k) = gridPattern (gridExponent v - k) (nearestEven v (2 ^ gridExponent v)) := by
  rw [roundUnits, gridExponent_div_two_pow, Nat.shiftLeft_eq, ← pow_add, Nat.add_sub_cancel' hk]

/-! ### The operations on an integer -/

theorem signBit_i2f (n : Nat) : signBit (i2f n) = false := signBit_withSign _ (roundUnits_le _ _)

theorem magnitude_i2f {n : Nat} (hn : n ≤ 8192) : magnitude (i2f n) = n * unitOne := by
  have value := (isFinite_i2f_and_realValue hn).2
  rw [realValue_eq, signBit_i2f, signOf_false, one_mul, div_eq_iff (by positivity), ← unitOne_cast] at value
  exact_mod_cast value

theorem fmul_i2f {a : F64} {n : Nat} (ha : isFinite a = true) (hn : n ≤ 8192) :
    fmul a (i2f n) = withSign (signBit a) (roundUnits (magnitude a * n) 1) := by
  rw [fmul_of_isFinite ha (isFinite_i2f_and_realValue hn).1, signBit_i2f, Bool.bne_false, magnitude_i2f hn, ← mul_assoc,
    roundUnits_mul_self_right unitOne_pos]

theorem fdiv_i2f {a : F64} {n : Nat} (ha : isFinite a = true) (h0 : 1 ≤ n) (hn : n ≤ 8192) :
    fdiv a (i2f n) = withSign (signBit a) (roundUnits (magnitude a) n) := by
  rw [fdiv_of_isFinite ha (isFinite_i2f_and_realValue hn).1 (isZero_i2f h0 hn), signBit_i2f, Bool.bne_false, magnitude_i2f hn,
    roundUnits_mul_right unitOne_pos]

/-! ### Division by a power of two -/

theorem two_pow_le_8192 {k : Nat} (hk : k ≤ 13) : 2 ^ k ≤ 8192 := Nat.pow_le_pow_right (by decide) hk

/-- The quotient of the grid point `q` of the grid of `2^t` units is the same point of the grid of `2^(t-k)` units. -/
theorem fdiv_gridPoint {t q k : Nat} (neg : Bool) (hk : k ≤ 13) (hkt : k ≤ t) (hq : q ≤ 2 ^ 53) (hn : t = 0 ∨ 2 ^ 52 ≤ q)
    (hp : t * 2 ^ 52 + q < infPattern) :
    fdiv (withSign neg (t * 2 ^ 52 + q)) (i2f (2 ^ k)) = withSign neg ((t - k) * 2 ^ 52 + q) := by
  have hp' : (t - k) * 2 ^ 52 + q < infPattern :=
    (Nat.add_le_add_right (Nat.mul_le_mul_right _ (Nat.sub_le t k)) q).trans_lt hp
  have units : q * 2 ^ t = q * 2 ^ (t - k) * 2 ^ k := by rw [mul_assoc, ← pow_add, Nat.sub_add_cancel hkt]
  have point := withSign_roundUnits_magnitude (isFinite_withSign neg hp')
  rw [signBit_withSign neg hp'.le, magnitude_withSign neg hq (by omega) hp'] at point
  rw [fdiv_i2f (isFinite_withSign neg hp) Nat.one_le_two_pow (two_pow_le_8192 hk), signBit_withSign neg hp.le,
    magnitude_withSign neg hq hn hp, units, roundUnits_mul_self_right (by positivity), point]

/-- R121: a value that is rounded and then divided by `2^k` is rounded once, when it does not overflow and the quotient keeps
53 bits. -/
theorem fdiv_withSign_roundUnits {v k : Nat} (neg : Bool) (hk : k ≤ 13) (hv : k ≤ gridExponent v)
    (hv' : gridExponent v < 2045) :
    fdiv (withSign neg (roundUnits v 1)) (i2f (2 ^ k)) = withSign neg (roundUnits v (2 ^ k)) := by
  have inf : infPattern = 2047 * 2 ^ 52 := rfl
  have grid := onGrid_roundUnits v one_pos
  rw [Nat.div_one, Nat.shiftLeft_eq, one_mul] at grid
  have top := grid.le_top
  have product := roundUnits_two_pow (Nat.zero_le (gridExponent v))
  rw [pow_zero, Nat.sub_zero, gridPattern, Nat.min_eq_left (by omega)] at product
  rw [product, roundUnits_two_pow hv, gridPattern, Nat.min_eq_left (by omega)]
  exact fdiv_gridPoint neg hk hv top grid.normal_point (by omega)

end Sys2Proof.Machine
end

section
/-! The twiddle ROM and its read port (43_twiddle_rom.md R181 to R187). -/

namespace Sys2Proof.Machine

open Sys2Proof.Claims

/-! ### The arguments -/

/-- The turn's fraction `n / 2^k`, times `-K2`, is rounded once (R121, R182): the product has its leading bit far above the
subnormals and far below the overflow. -/
theorem fdiv_fmul_k2 {k n : Nat} (hk : k ≤ 13) (h0 : 1 ≤ n) (hn : n ≤ 8192) :
    fdiv (fmul (fneg k2) (i2f n)) (i2f (2 ^ k)) = withSign true (roundUnits (magnitude k2 * n) (2 ^ k)) := by
  have product : fmul (fneg k2) (i2f n) = withSign true (roundUnits (magnitude k2 * n) 1) := fmul_i2f (by decide) hn
  have least : gridExponent (magnitude k2) = 1024 := by decide +kernel
  have greatest : gridExponent (magnitude k2 * 8192) = 1037 := by decide +kernel
  have low := gridExponent_mono (Nat.le_mul_of_pos_right (magnitude k2) h0)
  have high := gridExponent_mono (Nat.mul_le_mul_left (magnitude k2) hn)
  rw [product]
  exact fdiv_withSign_roundUnits true hk (by omega) (by omega)

/-- `v_0 = -0` (R182), at every size. -/
theorem fdiv_fmul_k2_zero {k : Nat} (hk : k ≤ 13) : fdiv (fmul (fneg k2) (i2f 0)) (i2f (2 ^ k)) = negZero := by
  rw [fmul_i2f (by decide) (Nat.zero_le _), mul_zero, roundUnits_zero,
    fdiv_i2f (by decide) Nat.one_le_two_pow (two_pow_le_8192 hk), (magnitude_eq_zero_iff _).mpr (isZero_withSign_zero _),
    roundUnits_zero]
  rfl

theorem twiddleArg_zero : twiddleArg 0 = negZero := fdiv_fmul_k2_zero (k := 13) le_rfl

theorem twiddleArg_eq {j : Nat} (h1 : 1 ≤ j) (hj : j ≤ 8192) :
    twiddleArg j = withSign true (roundUnits (magnitude k2 * j) 8192) := fdiv_fmul_k2 (k := 13) le_rfl h1 hj

/-- The argument of entry `n` of the table of size `2^k` is the argument of the ROM entry that the table reads (R184). -/
theorem twiddleArg_mul_two_pow {k n : Nat} (hk : k ≤ 13) (hn : n < 2 ^ k) :
    fdiv (fmul (fneg k2) (i2f n)) (i2f (2 ^ k)) = twiddleArg (n * 2 ^ (13 - k)) := by
  rcases Nat.eq_zero_or_pos n with rfl | h0
  · rw [fdiv_fmul_k2_zero hk, zero_mul, twiddleArg_zero]
  · have scale : 0 < 2 ^ (13 - k) := by positivity
    have full : 2 ^ k * 2 ^ (13 - k) = 8192 := by rw [← pow_add, Nat.add_sub_cancel' hk]; rfl
    have small : n * 2 ^ (13 - k) ≤ 8192 := full ▸ Nat.mul_le_mul_right _ hn.le
    rw [fdiv_fmul_k2 hk h0 (hn.le.trans (two_pow_le_8192 hk)), twiddleArg_eq (Nat.mul_pos h0 scale) small,
      ← roundUnits_mul_right scale, full, mul_assoc]

/-- `v_j` is the single rounding of `-K2·j/8192` (R182). -/
theorem isRounding_twiddleArg {j : Nat} (h1 : 1 ≤ j) (hj : j ≤ 8192) :
    IsRounding (-(realValue k2) * (j : ℝ) / 8192) (twiddleArg j) := by
  have h := isRounding_roundUnits true (magnitude k2 * j) (d := 8192) (by decide)
  have value : realValue k2 = magnitude k2 / 2 ^ 1074 := rfl
  rw [← twiddleArg_eq h1 hj, signOf_true, Nat.cast_mul, Nat.cast_ofNat] at h
  convert h using 1
  rw [value]
  generalize (2 : ℝ) ^ 1074 = u
  ring

/-! ### Their bounds -/

/-- The rounding of a number between two values lies between them. -/
theorem realValue_mem_Icc_of_isRounding {x : ℝ} {r a b : F64} (h : IsRounding x r) (ha : isFinite a = true)
    (hb : isFinite b = true) (hx : x ∈ Set.Icc (realValue a) (realValue b)) :
    realValue r ∈ Set.Icc (realValue a) (realValue b) := by
  obtain ⟨hax, hxb⟩ := hx
  have fits : |x| < 2 ^ 1024 - 2 ^ 970 :=
    (abs_le_max_abs_abs hax hxb).trans_lt (max_lt (abs_realValue_lt ha) (abs_realValue_lt hb))
  obtain ⟨-, best⟩ := h.2 fits
  have nearA := (best a ha).1
  have nearB := (best b hb).1
  rw [abs_sub_comm (realValue a), abs_of_nonneg (sub_nonneg.mpr hax), abs_le] at nearA
  rw [abs_of_nonneg (sub_nonneg.mpr hxb), abs_le] at nearB
  exact ⟨by linarith, by linarith⟩

/-- Multiples of two values compare as their units do. -/
theorem realValue_mul_le {a b : F64} {m n : ℤ} (h : signedUnits a * m ≤ signedUnits b * n) :
    realValue a * m ≤ realValue b * n := by
  rw [realValue, realValue, div_mul_eq_mul_div, div_mul_eq_mul_div]
  exact div_le_div_of_nonneg_right (by exact_mod_cast h) (by positivity)

theorem realValue_lt {a b : F64} (h : signedUnits a < signedUnits b) : realValue a < realValue b := by
  rw [realValue, realValue]
  gcongr

/-- The least value above `-K2`. -/
def aboveNegK2 : F64 := 0xC01921FB54442D17

/-- `-K2/8192`, the argument of the first entry after the first. -/
def firstArg : F64 := 0xBF4921FB54442D18

theorem realValue_posZero : realValue posZero = 0 := (realValue_eq_zero_iff posZero).mpr rfl

theorem realValue_k2_pos : 0 < realValue k2 := realValue_posZero ▸ realValue_lt (by decide +kernel)

/-- The exact argument of an entry after the first lies between two values inside R182's bounds. -/
theorem exactArg_mem_Icc {j : Nat} (h1 : 1 ≤ j) (hj : j ≤ 8191) :
    -(realValue k2) * (j : ℝ) / 8192 ∈ Set.Icc (realValue aboveNegK2) (realValue firstArg) := by
  have low : realValue aboveNegK2 * (8192 : ℤ) ≤ realValue (fneg k2) * (8191 : ℤ) := realValue_mul_le (by decide +kernel)
  have high : realValue (fneg k2) * (1 : ℤ) ≤ realValue firstArg * (8192 : ℤ) := realValue_mul_le (by decide +kernel)
  have first : realValue k2 * 1 ≤ realValue k2 * j := mul_le_mul_of_nonneg_left (by exact_mod_cast h1) realValue_k2_pos.le
  have last : realValue k2 * j ≤ realValue k2 * 8191 := mul_le_mul_of_nonneg_left (by exact_mod_cast hj) realValue_k2_pos.le
  rw [realValue_fneg] at low high
  push_cast at low high
  exact ⟨by linarith, by linarith⟩

theorem twiddleArg_bounds {j : Nat} (h1 : 1 ≤ j) (hj : j ≤ 8191) :
    -(realValue k2) < realValue (twiddleArg j) ∧ realValue (twiddleArg j) < 0 := by
  have inner : realValue (fneg k2) < realValue aboveNegK2 := realValue_lt (by decide +kernel)
  have outer : realValue firstArg < realValue posZero := realValue_lt (by decide +kernel)
  rw [realValue_fneg] at inner
  rw [realValue_posZero] at outer
  obtain ⟨above, below⟩ := realValue_mem_Icc_of_isRounding (isRounding_twiddleArg h1 (hj.trans (by decide))) (by decide)
    (by decide) (exactArg_mem_Icc h1 hj)
  exact ⟨inner.trans_le above, below.trans_lt outer⟩

/-! ### The entries -/

/-- R186. -/
theorem tw_zero : tw 0 = ⟨one, negZero⟩ := by
  obtain ⟨-, -, sin, -, cos⟩ := kernelContractHolds
  rw [tw, twiddleArg_zero, sin, cos]

/-- R187. -/
theorem tw_eq_of_negative {j : Nat} (h : signBit (twiddleArg j) = true) :
    tw j = ⟨cosF (fabs (twiddleArg j)), fneg (sinF (fabs (twiddleArg j)))⟩ := by
  rw [tw, cosF_fabs, sinF_eq_of_fabs, if_pos h]

theorem twiddle_eq_tw (k n : Nat) : twiddle k n = tw (n * 2 ^ (13 - k)) := by
  rw [twiddle, Nat.shiftLeft_eq]

theorem directEntry_eq_tw {k n : Nat} (hk : k ≤ 13) (hn : n < 2 ^ k) : directEntry (2 ^ k) n = tw (n * 2 ^ (13 - k)) := by
  rw [directEntry, twiddleArg_mul_two_pow hk hn, tw]

/-! ### `TWLD` -/

theorem failedCheck_twld_of_validLen {s : State} (h : ValidLen s) : failedCheck .twld s = checkTwiddleIndex s := by
  rw [failedCheck, checkLength_of_validLen h, thenCheck_none]

/-- Said of every entry `c`, so that no check of a proof evaluates an entry of the ROM. -/
theorem succeed_setResult (s : State) (c : C64) :
    succeed (s.setResult c) = { s with fr0 := c.re, fr1 := c.im, err := .ok } := rfl

theorem exec_twld_of_lt {s : State} (h : ValidLen s) (hn : s.arg0.toNat < pts s) :
    exec .twld s = .next (succeed (s.setResult (tw (s.arg0.toNat * 2 ^ (13 - s.log2n.toNat))))) := by
  have passed : checkTwiddleIndex s = none := (operandCheck_eq_none_iff .twld s).mpr hn.not_ge
  rw [exec_eq_perform, failedCheck_twld_of_validLen h, passed, perform_none, effectOf, twldEffect, twiddle_eq_tw]

/-! ### Obligations -/

/-- Settles O38: `TWLD` puts the entry of its index into the result registers; index 0 is below every N. -/
theorem twldReadsTheRom : Obligations.TwldReadsTheRom := by
  refine ⟨rfl, fun s => ⟨fun h hn => ?_, fun h h0 => ?_, fun h => ?_, fun h hn => ?_⟩⟩
  · rw [exec_twld_of_lt h hn, succeed_setResult]
  · have index : s.arg0.toNat = 0 := by rw [h0]; rfl
    rw [exec_twld_of_lt h (index ▸ Nat.two_pow_pos _), index, zero_mul, tw_zero, succeed_setResult, one, negZero]
  · rw [exec_eq_perform, failedCheck, checkLength_of_not_validLen h, thenCheck_some, perform_some, raise]
  · have failed : checkTwiddleIndex s = some .operand := (operandCheck_eq_some_iff .twld s).mpr hn
    rw [exec_eq_perform, failedCheck_twld_of_validLen h, failed, perform_some, raise]

/-- Settles O39: each argument is rounded once, and so stays between two values inside its bounds; its sign is negative. -/
theorem twiddleArguments : Obligations.TwiddleArguments := by
  refine ⟨twiddleArg_zero, fun j h1 hj => ?_⟩
  obtain ⟨low, high⟩ := twiddleArg_bounds h1 hj
  exact ⟨isRounding_twiddleArg h1 (hj.trans (by decide)), low, high, tw_eq_of_negative (signBit_of_realValue_neg high)⟩

/-- Settles O40: both entries of a doubling step are the same entry of the ROM. -/
theorem doublingConstructionAgrees : Obligations.DoublingConstructionAgrees := by
  refine ⟨fun k n _ hk hn => ?_, fun k n _ hk hn => ⟨directEntry_eq_tw hk hn, twiddle_eq_tw k n⟩⟩
  have doubled : 2 * n * 2 ^ (13 - (k + 1)) = n * 2 ^ (13 - k) := by
    rw [mul_comm 2, mul_assoc, ← pow_succ', show 13 - (k + 1) + 1 = 13 - k by omega]
  rw [directEntry_eq_tw (by omega) (by omega), directEntry_eq_tw (by omega) hn, doubled]

end Sys2Proof.Machine
end

section
/-! How a command ends by what its checks find (30_encoding.md R98), and the word of a command of format `CA`
(30_encoding.md R91). -/

namespace Sys2Proof

/-- The fields of R91, each in its place. -/
theorem commandWord_eq_or (op a : BitVec 8) : commandWord op a = op.setWidth 32 ||| a.setWidth 32 <<< 8 := by
  have shifted : a.toNat <<< 8 < 2 ^ 32 := by rw [Nat.shiftLeft_eq]; omega
  refine BitVec.eq_of_toNat_eq ?_
  rw [commandWord, BitVec.toNat_append, BitVec.toNat_append, BitVec.toNat_or, BitVec.toNat_shiftLeft,
    BitVec.toNat_setWidth_of_le (by decide), BitVec.toNat_setWidth_of_le (by decide), Nat.mod_eq_of_lt shifted, Nat.or_comm]
  simp

namespace Machine

open Sys2Proof.Claims

theorem exec_of_passed {i : Instr} {s : State} (h : failedCheck i s = none) :
    exec i s = .next (succeed (effectOf i s)) := by
  rw [exec_eq_perform, h, perform_none]

theorem exec_of_failed {i : Instr} {s : State} {e : Err} (h : failedCheck i s = some e) :
    exec i s = .next { s with err := e } := by
  rw [exec_eq_perform, h, perform_some, raise]

/-- A command that ends with `ERR = 0` has passed its checks. -/
theorem exec_ok {i : Instr} {s t : State} (h : exec i s = .next t) (hok : t.err = .ok) :
    failedCheck i s = none ∧ t = succeed (effectOf i s) := by
  obtain ⟨e, he, rfl⟩ | passed := exec_cases h
  · obtain rfl : e = .ok := hok
    exact absurd he (failedCheck_ne_ok i s)
  · exact passed

/-! ### The checks of the commands that compare two lengths (R304) -/

theorem checkTwoSequences_of_not_validLen {s : State} (h : ¬ ValidLen s) : checkTwoSequences s = some .length := by
  rw [checkTwoSequences, checkLength_of_not_validLen h, thenCheck_some]

theorem checkTwoSequences_of_validLen {s : State} (h : ValidLen s) :
    checkTwoSequences s = if s.ylog2n = s.log2n then none else some .mismatch := by
  rw [checkTwoSequences, checkLength_of_validLen h, thenCheck_none, checkOperandLength]
  split <;> simp [*]

theorem checkWindowed_of_not_validLen {s : State} (h : ¬ ValidLen s) : checkWindowed s = some .length := by
  rw [checkWindowed, checkLength_of_not_validLen h, thenCheck_some]

theorem checkWindowed_of_validLen {s : State} (h : ValidLen s) :
    checkWindowed s = if s.wlen.toNat = pts s then none else some .mismatch := by
  rw [checkWindowed, checkLength_of_validLen h, thenCheck_none, checkWindowMatch, ← pts_eq_len]
  split <;> simp [*]

end Machine
end Sys2Proof
end

section
/-! Products with special parts (44_transform.md R202), and `CMUL` (R203). -/

namespace Sys2Proof.Machine

/-! ### One sum, one product -/

theorem fsub_of_isNaN {a b : F64} (h : isNaN a = true ∨ isNaN b = true) : fsub a b = qNaN :=
  fadd_of_isNaN (by rwa [isNaN_fneg])

theorem isNaN_fmul {a b : F64} (h : isNaN a = true ∨ isNaN b = true) : isNaN (fmul a b) = true := by
  rw [fmul_of_isNaN h, isNaN_qNaN]

theorem fmul_one {a : F64} (ha : isFinite a = true) : fmul a one = a := by
  have unit : i2f 1 = one := by decide +kernel
  rw [← unit, fmul_i2f ha (by decide), mul_one, withSign_roundUnits_magnitude ha]

theorem isZero_fadd {a b : F64} (ha : isZero a = true) (hb : isZero b = true) : isZero (fadd a b) = true := by
  obtain rfl | rfl := (isZero_iff a).mp ha <;> obtain rfl | rfl := (isZero_iff b).mp hb <;> decide +kernel

theorem isZero_fsub {a b : F64} (ha : isZero a = true) (hb : isZero b = true) : isZero (fsub a b) = true :=
  isZero_fadd ha (by rwa [isZero_fneg])

/-! ### Complex products -/

/-- R202: each part of the product depends on all four parts of the operands. -/
theorem cmul_of_isNaN {x y : C64} (h : isNaN x.re = true ∨ isNaN x.im = true ∨ isNaN y.re = true ∨ isNaN y.im = true) :
    cmul x y = ⟨qNaN, qNaN⟩ := by
  have re : isNaN (fmul x.re y.re) = true ∨ isNaN (fmul x.im y.im) = true := by
    rcases h with h | h | h | h <;> simp [isNaN_fmul, h]
  have im : isNaN (fmul x.re y.im) = true ∨ isNaN (fmul x.im y.re) = true := by
    rcases h with h | h | h | h <;> simp [isNaN_fmul, h]
  rw [cmul, fsub_of_isNaN re, fadd_of_isNaN im]

/-- A product of a zero and a finite number is zero in both parts. -/
theorem isZero_cmul {x y : C64} (hre : isZero x.re = true) (him : isZero x.im = true) (hre' : isFinite y.re = true)
    (him' : isFinite y.im = true) : isZero (cmul x y).re = true ∧ isZero (cmul x y).im = true :=
  ⟨isZero_fsub (isZero_fmul hre hre') (isZero_fmul him him'), isZero_fadd (isZero_fmul hre him') (isZero_fmul him hre')⟩

/-- R203: by `TW[0]` each part becomes itself plus or minus a zero. -/
theorem cmul_one_negZero {x : C64} (hre : isFinite x.re = true) (him : isFinite x.im = true) :
    ∃ z w, isZero z = true ∧ isZero w = true ∧ cmul x ⟨one, negZero⟩ = ⟨fadd z x.re, fadd w x.im⟩ := by
  have zero {a : F64} (ha : isFinite a = true) : isZero (fmul a negZero) = true := fmul_comm _ _ ▸ isZero_fmul rfl ha
  refine ⟨fneg (fmul x.im negZero), fmul x.re negZero, by rw [isZero_fneg, zero him], zero hre, ?_⟩
  rw [cmul, fmul_one hre, fmul_one him, fsub, fadd_comm x.re]

/-! ### Obligations -/

/-- Settles O41: by `(1.0, -0)` a zero is added to or subtracted from each part. -/
theorem cmulCommand : Obligations.CmulCommand := by
  refine ⟨rfl, fun s => ?_, fun x y => cmul_of_isNaN, fun x hre him => ?_⟩
  · rw [exec_of_passed rfl, effectOf, cmulEffect, succeed_setResult, cmul]
  · obtain ⟨z, w, hz, hw, product⟩ := cmul_one_negZero hre him
    rw [product]
    exact ⟨fadd_of_isZero hz hre, isZero_fadd hz, fadd_of_isZero hw him, isZero_fadd hw⟩

end Sys2Proof.Machine
end

section
/-! The entries that a butterfly stage leaves, and `STAGE` (44_transform.md R204, R205). -/

namespace Sys2Proof.Machine

open Sys2Proof.Claims

/-! ### The entries of a stage -/

/-- The parts of entry `e` are its words, and each is what the write puts at a word of `e`. -/
theorem x_produce_of_partOf {s : State} {w : Memory Word → Memory Word} {e : Nat} {c : C64}
    (h : ∀ k, k / 2 = e → (w (s.mem s.other)).lookup k = some (partOf k c)) : (s.produce w).x e = c := by
  refine x_produce ((h (2 * e) (by omega)).trans ?_) ((h (2 * e + 1) (by omega)).trans ?_)
  · rw [partOf, if_pos (by omega)]
  · rw [partOf, if_neg (by omega)]

/-- The direct combination of the pairs (R205 b). -/
theorem x_stageEffect_one {s : State} {e : Nat} (h : e < 2 * (s.len / 2)) :
    (stageEffect 1 s).x e = if e % 2 = 0 then cadd (s.x e) (s.x (e + 1)) else csub (s.x (e - 1)) (s.x e) := by
  refine x_produce_of_partOf fun k hk => ?_
  simp only [pow_one, if_true]
  rw [lookup_pairs, hk, if_pos h]

theorem x_stageEffect_even {s : State} {b : Nat} (h : b < s.len / 2) :
    (stageEffect 1 s).x (2 * b) = cadd (s.x (2 * b)) (s.x (2 * b + 1)) := by
  rw [x_stageEffect_one (by omega), if_pos (by omega)]

theorem x_stageEffect_odd {s : State} {b : Nat} (h : b < s.len / 2) :
    (stageEffect 1 s).x (2 * b + 1) = csub (s.x (2 * b)) (s.x (2 * b + 1)) := by
  rw [x_stageEffect_one (by omega), if_neg (by omega), Nat.add_sub_cancel]

/-- The butterflies of a stage of size `2^(d+1)`, from 4 on (R205 c, d). -/
theorem x_stageEffect_succ {s : State} {d e : Nat} (hd : d ≠ 0) (h : e < s.len / 2 ^ (d + 1) * 2 ^ (d + 1)) :
    (stageEffect (d + 1) s).x e = butterflyEntry s (2 ^ d) (s.len / 2 ^ (d + 1)) e := by
  have size : 2 ^ (d + 1) = 2 * 2 ^ d := pow_succ' 2 d
  have not_two : 2 * 2 ^ d ≠ 2 := by
    have := Nat.one_lt_two_pow hd
    omega
  refine x_produce_of_partOf fun k hk => ?_
  simp only [size] at h ⊢
  simp only [if_neg not_two, Nat.mul_div_cancel_left _ two_pos]
  rw [lookup_blocks _ _ _ _ (Nat.two_pow_pos d), hk, if_pos h]

/-- The first output of butterfly `q` of block `i`. -/
theorem butterflyEntry_first (s : State) {half q : Nat} (blocks i : Nat) (hq : q < half) :
    butterflyEntry s half blocks (i * (2 * half) + q) =
      cadd (s.x (i * (2 * half) + q))
        (cmul (s.x (i * (2 * half) + q + half)) (twiddle s.log2n.toNat (blocks * q))) := by
  have block : (i * (2 * half) + q) / (2 * half) = i := Nat.div_eq_of_lt_le (by omega) (by rw [Nat.succ_mul i]; omega)
  rw [butterflyEntry, block, Nat.add_sub_cancel_left, if_pos hq]

/-- The second output of butterfly `q` of block `i`. -/
theorem butterflyEntry_second (s : State) {half q : Nat} (blocks i : Nat) (hq : q < half) :
    butterflyEntry s half blocks (i * (2 * half) + q + half) =
      csub (s.x (i * (2 * half) + q))
        (cmul (s.x (i * (2 * half) + q + half)) (twiddle s.log2n.toNat (blocks * q))) := by
  have block : (i * (2 * half) + q + half) / (2 * half) = i :=
    Nat.div_eq_of_lt_le (by omega) (by rw [Nat.succ_mul i]; omega)
  rw [butterflyEntry, block, if_neg (by omega), Nat.add_sub_cancel, Nat.add_sub_cancel_left]

/-- Both outputs of butterfly `q` of block `i`, for a stage of at least 4 (R205 c, d). -/
theorem x_stageEffect_butterfly {s : State} {d i q : Nat} (hd : d ≠ 0) (hi : i < s.len / 2 ^ (d + 1)) (hq : q < 2 ^ d) :
    (stageEffect (d + 1) s).x (i * 2 ^ (d + 1) + q) =
        cadd (s.x (i * 2 ^ (d + 1) + q))
          (cmul (s.x (i * 2 ^ (d + 1) + q + 2 ^ d)) (twiddle s.log2n.toNat (s.len / 2 ^ (d + 1) * q))) ∧
      (stageEffect (d + 1) s).x (i * 2 ^ (d + 1) + q + 2 ^ d) =
        csub (s.x (i * 2 ^ (d + 1) + q))
          (cmul (s.x (i * 2 ^ (d + 1) + q + 2 ^ d)) (twiddle s.log2n.toNat (s.len / 2 ^ (d + 1) * q))) := by
  have size : 2 ^ (d + 1) = 2 * 2 ^ d := pow_succ' 2 d
  have block_end : i * 2 ^ (d + 1) + 2 ^ (d + 1) ≤ s.len / 2 ^ (d + 1) * 2 ^ (d + 1) :=
    Nat.succ_mul i _ ▸ Nat.mul_le_mul_right _ hi
  rw [x_stageEffect_succ hd (by omega), x_stageEffect_succ hd (by omega), size]
  exact ⟨butterflyEntry_first s _ i hq, butterflyEntry_second s _ i hq⟩

/-! ### The checks (R204, R303) -/

theorem failedCheck_stage_of_validLen {s : State} (h : ValidLen s) (a : BitVec 8) :
    failedCheck (.stage a) s = checkStage a s := by
  rw [failedCheck, checkLength_of_validLen h, thenCheck_none]

theorem checkStage_eq_none {s : State} {a : BitVec 8} (h1 : 1 ≤ a.toNat) (ha : a.toNat ≤ s.log2n.toNat) :
    checkStage a s = none :=
  (operandCheck_eq_none_iff (.stage a) s).mpr (by rintro (h | h) <;> omega)

/-! ### Obligations -/

/-- Settles O42: the memory laws of one stage, block by block, and the frame of every command that produces a sequence. -/
theorem stageButterflies : Obligations.StageButterflies := by
  refine ⟨fun a => ?_, fun s a => ⟨fun h h1 ha => ?_, fun h => ?_, fun h hbad => ?_⟩⟩
  · have word : 0x00000018#32 ||| a.setWidth 32 <<< 8 = encode (.stage a) := (commandWord_eq_or 0x18 a).symm
    rw [word, encodedCommandDecodesToItself _ rfl]
  · have passed : failedCheck (.stage a) s = none := by rw [failedCheck_stage_of_validLen h, checkStage_eq_none h1 ha]
    refine ⟨_, exec_of_passed passed, produced_of_tailKept (tailKept_stage (by omega) s), fun i => ?_, fun hone b hb => ?_,
      fun htwo i q hi hq => ?_⟩
    · rw [z_succeed, effectOf, stageEffect, z_produce]
    · rw [x_succeed, x_succeed, effectOf, hone]
      exact ⟨x_stageEffect_even hb, x_stageEffect_odd hb⟩
    · obtain ⟨d, hd⟩ := Nat.exists_eq_succ_of_ne_zero (n := a.toNat) (by omega)
      rw [x_succeed, x_succeed, effectOf, hd, Nat.succ_sub_one, ← twiddle_eq_tw]
      rw [hd] at hi hq
      exact x_stageEffect_butterfly (by omega) hi hq
  · exact exec_of_failed (by rw [failedCheck, checkLength_of_not_validLen h, thenCheck_some])
  · have failed : checkStage a s = some .operand := (operandCheck_eq_some_iff (.stage a) s).mpr hbad
    exact exec_of_failed (by rw [failedCheck_stage_of_validLen h, failed])

end Sys2Proof.Machine
end

section
/-! The commands that move or change the entries of a sequence one by one: `REVCOPY`, `SCALE`, `CMULV`, `XCHG`
(44_transform.md R207 to R211). -/

namespace Sys2Proof.Machine

open Sys2Proof.Claims

/-! ### Entries written in place (R34) -/

theorem registers_putEntries (s : State) (m : MemName) (n : Nat) (f : Nat → C64) :
    registers (s.putEntries m n f) = registers s := by
  cases m <;> rfl

@[simp] theorem registers_succeed (s : State) : registers (succeed s) = registers s := rfl

@[simp] theorem yEntry_succeed (s : State) (i : Nat) : (succeed s).yEntry i = s.yEntry i := entry_succeed s .y i

theorem x_putWorking (s : State) {n i : Nat} (hi : i < n) (f : Nat → C64) : (s.putEntries s.working n f).x i = f i := by
  rw [State.x, working_putEntries, entry_putEntries, if_pos ⟨rfl, hi⟩]

theorem memFrame_putEntries (s : State) (m : MemName) (n : Nat) (f : Nat → C64) :
    MemFrame s (s.putEntries m n f) (fun m' k => m' = m ∧ k < 2 * n) :=
  ⟨fun _ _ hk => by rw [word_putEntries, if_neg hk], freq_putEntries s m n f⟩

theorem memFrame_succeed {s t : State} {c : MemName → Nat → Prop} (h : MemFrame s t c) : MemFrame s (succeed t) c := by
  obtain ⟨words, freqs⟩ := h
  exact ⟨fun n k hk => (word_succeed t n k).trans (words n k hk), freqs⟩

theorem wroteInPlace_putEntries (s : State) (m : MemName) (n : Nat) (f : Nat → C64) :
    WroteInPlace s (succeed (s.putEntries m n f)) m (2 * n) :=
  ⟨rfl, State.putEntries_sel s m n f, registers_putEntries s m n f, memFrame_succeed (memFrame_putEntries s m n f)⟩

/-! ### `REVCOPY` -/

theorem exec_revcopy_of_validLen {s : State} (h : ValidLen s) : exec .revcopy s = .next (succeed (revcopyEffect s)) :=
  exec_of_passed (checkLength_of_validLen h)

/-- Entry 0 stays, and entry `i` is the old entry `N - i` (R207). -/
theorem x_revcopyEffect {s : State} {i : Nat} (hi : i < s.len) :
    (revcopyEffect s).x i = if i = 0 then s.x 0 else s.x (s.len - i) := by
  obtain ⟨hre, him⟩ := lookup_loop_storeC_hit (g := fun i => i) (fun _ _ _ _ e => e)
    (fun i => if i = 0 then s.x 0 else s.x (s.len - i)) (s.mem s.other) hi
  exact x_produce hre him

/-- R207: the second `REVCOPY` takes every entry back, since `N - (N - i) = i`. -/
theorem x_revcopyEffect_twice {s : State} {i : Nat} (hi : i < s.len) : (revcopyEffect (revcopyEffect s)).x i = s.x i := by
  have len : (revcopyEffect s).len = s.len := len_produce s _
  rw [x_revcopyEffect (len ▸ hi), len]
  split
  · next h0 => rw [x_revcopyEffect (by omega), if_pos rfl, h0]
  · next h0 => rw [x_revcopyEffect (by omega), if_neg (by omega), Nat.sub_sub_self hi.le]

/-! ### `XCHG` -/

theorem working_eq_xa_or_xb (s : State) : s.working = .xa ∨ s.working = .xb := by
  unfold State.working
  split
  · exact .inr rfl
  · exact .inl rfl

theorem y_ne_working (s : State) : MemName.y ≠ s.working := by
  rcases working_eq_xa_or_xb s with h | h <;> rw [h] <;> decide

theorem x_xchgEffect {s : State} {i : Nat} (hi : i < s.len) : (xchgEffect s).x i = s.yEntry i := by
  rw [State.x, xchgEffect, working_putEntries, entry_putEntries, if_neg fun h => y_ne_working _ h.1.symm]
  exact x_putWorking s hi s.yEntry

theorem yEntry_xchgEffect {s : State} {i : Nat} (hi : i < s.len) : (xchgEffect s).yEntry i = s.x i := by
  rw [State.yEntry, xchgEffect, entry_putEntries, if_pos ⟨rfl, hi⟩]

theorem registers_xchgEffect (s : State) : registers (xchgEffect s) = registers s := by
  rw [xchgEffect, registers_putEntries, registers_putEntries]

theorem memFrame_xchg (s : State) :
    MemFrame s (xchgEffect s) (fun n k => (n = s.working ∨ n = .y) ∧ k < 2 * s.len) := by
  refine ⟨fun n k hk => ?_, fun j => by simp [xchgEffect]⟩
  rw [xchgEffect, word_putEntries, if_neg fun h => hk ⟨.inr h.1, h.2⟩, word_putEntries, if_neg fun h => hk ⟨.inl h.1, h.2⟩]

theorem len_xchgEffect (s : State) : (xchgEffect s).len = s.len := by simp [xchgEffect]

theorem x_xchgEffect_twice {s : State} {i : Nat} (hi : i < s.len) : (xchgEffect (xchgEffect s)).x i = s.x i := by
  rw [x_xchgEffect (len_xchgEffect s ▸ hi), yEntry_xchgEffect hi]

theorem yEntry_xchgEffect_twice {s : State} {i : Nat} (hi : i < s.len) :
    (xchgEffect (xchgEffect s)).yEntry i = s.yEntry i := by
  rw [yEntry_xchgEffect (len_xchgEffect s ▸ hi), x_xchgEffect hi]

theorem exec_xchg_of_validLen {s : State} (h : ValidLen s) (hy : s.ylog2n = s.log2n) :
    exec .xchg s = .next (succeed (xchgEffect s)) :=
  exec_of_passed ((checkTwoSequences_of_validLen h).trans (if_pos hy))

/-! ### Obligations -/

/-- Settles O43: the map `i ↦ N - i` of the entries after the first is its own inverse. -/
theorem revcopyReverses : Obligations.RevcopyReverses := by
  refine ⟨rfl, fun s => ⟨fun h => ?_, fun h => exec_of_failed (checkLength_of_not_validLen h)⟩⟩
  have first : 0 < s.len := Nat.two_pow_pos _
  have same_length : (succeed (revcopyEffect s)).log2n = s.log2n := State.produce_log2n s _
  have h' : ValidLen (succeed (revcopyEffect s)) := by rwa [ValidLen, same_length]
  refine ⟨_, exec_revcopy_of_validLen h, produced_of_tailKept (tailKept_revcopy s), ?_, fun i h1 hi => ?_, fun i => ?_,
    _, exec_revcopy_of_validLen h', fun i hi => ?_⟩
  · rw [x_succeed, x_revcopyEffect first, if_pos rfl]
  · rw [x_succeed, x_revcopyEffect hi, if_neg (by omega), pts_eq_len]
  · rw [z_succeed, revcopyEffect, z_produce]
  · rw [revcopyEffect_succeed, succeed_succeed, x_succeed, x_revcopyEffect_twice hi]

/-- Settles O44: the entries below `N` are written in place. -/
theorem scaleDividesByN : Obligations.ScaleDividesByN := by
  refine ⟨rfl, fun s => ⟨fun h => ⟨_, exec_of_passed (checkLength_of_validLen h), wroteInPlace_putEntries s _ _ _,
    fun i (hi : i < s.len) => ?_⟩, fun h => exec_of_failed (checkLength_of_not_validLen h)⟩⟩
  rw [x_succeed, effectOf, scaleEffect, x_putWorking s hi, pts_eq_len]

/-- Settles O45: the entries below `N` are written in place, once the two lengths agree. -/
theorem cmulvMultipliesPointwise : Obligations.CmulvMultipliesPointwise := by
  refine ⟨rfl, fun s => ⟨fun h hy => ?_, fun h => exec_of_failed (checkTwoSequences_of_not_validLen h),
    fun h hy => exec_of_failed ((checkTwoSequences_of_validLen h).trans (if_neg hy))⟩⟩
  refine ⟨_, exec_of_passed ((checkTwoSequences_of_validLen h).trans (if_pos hy)), wroteInPlace_putEntries s _ _ _,
    fun i (hi : i < s.len) => ?_⟩
  rw [x_succeed, effectOf, cmulvEffect, x_putWorking s hi]

/-- Settles O46: the second half of the exchange writes what the working buffer held before the first. -/
theorem xchgExchanges : Obligations.XchgExchanges := by
  refine ⟨rfl, fun s => ⟨fun h hy => ?_, fun h => exec_of_failed (checkTwoSequences_of_not_validLen h),
    fun h hy => exec_of_failed ((checkTwoSequences_of_validLen h).trans (if_neg hy))⟩⟩
  have hlog : (succeed (xchgEffect s)).log2n = s.log2n := by simp [xchgEffect]
  have hylog : (succeed (xchgEffect s)).ylog2n = s.ylog2n := by simp [xchgEffect]
  have h' : ValidLen (succeed (xchgEffect s)) := by rwa [ValidLen, hlog]
  refine ⟨_, exec_xchg_of_validLen h hy, rfl, sel_xchgEffect s, ?_, memFrame_succeed (memFrame_xchg s), fun i hi => ?_,
    _, exec_xchg_of_validLen h' (by rw [hlog, hylog, hy]), fun i hi => ?_⟩
  · rw [registers_succeed, registers_xchgEffect]
  · rw [x_succeed, yEntry_succeed, x_xchgEffect hi, yEntry_xchgEffect hi]
    exact ⟨rfl, rfl⟩
  · rw [xchgEffect_succeed, succeed_succeed, x_succeed, yEntry_succeed, x_xchgEffect_twice hi, yEntry_xchgEffect_twice hi]
    exact ⟨rfl, rfl⟩

end Sys2Proof.Machine
end

section
/-! The composite commands are sequences of primitive ones (44_transform.md R206, R209, R212, R213; 46_analyzer.md R277). -/

namespace Sys2Proof.Machine

open Sys2Proof.Claims

/-! ### No command reads `STATUS.ERR` (R25) -/

theorem failedCheck_succeed (i : Instr) (s : State) : failedCheck i (succeed s) = failedCheck i s := by
  cases i <;> rfl

theorem convEffect_succeed (s : State) : convEffect (succeed s) = succeed (convEffect s) := by
  simp only [convEffect, fftEffect_succeed, xchgEffect_succeed, cmulvEffect_succeed, ifftEffect_succeed]

theorem analyzeEffect_succeed (windowed : Bool) (s : State) :
    analyzeEffect windowed (succeed s) = succeed (analyzeEffect windowed s) := by
  cases windowed <;> simp [analyzeEffect, wapplyEffect_succeed, liftEffect_succeed, fftEffect_succeed, magEffect_succeed]

theorem sinEffect_succeed (s : State) : sinEffect (succeed s) = succeed (sinEffect s) := by
  cases h : isFinite s.fa0 with
  | true => rw [sinEffect_of_isFinite h, sinEffect_of_isFinite (s := succeed s) h]; rfl
  | false => rw [sinEffect_of_not_isFinite h, sinEffect_of_not_isFinite (s := succeed s) h]; rfl

theorem cosEffect_succeed (s : State) : cosEffect (succeed s) = succeed (cosEffect s) := by
  cases h : isFinite s.fa0 with
  | true => rw [cosEffect_of_isFinite h, cosEffect_of_isFinite (s := succeed s) h]; rfl
  | false => rw [cosEffect_of_not_isFinite h, cosEffect_of_not_isFinite (s := succeed s) h]; rfl

theorem wgenEffect_succeed (kind : WindowKind) (s : State) : wgenEffect kind (succeed s) = succeed (wgenEffect kind s) := by
  simp only [wgenEffect, putWords_succeed, succeed_arg0]
  rfl

theorem effectOf_succeed (i : Instr) (s : State) : effectOf i (succeed s) = succeed (effectOf i s) := by
  cases i with
  | nop | cmul | brev | brevn | twld | resolve | asblock => rfl
  | sin => exact sinEffect_succeed s
  | cos => exact cosEffect_succeed s
  | reorder => exact reorderEffect_succeed s
  | stage a => exact stageEffect_succeed a.toNat s
  | fft => exact fftEffect_succeed s
  | revcopy => exact revcopyEffect_succeed s
  | scale => exact scaleEffect_succeed s
  | ifft => exact ifftEffect_succeed s
  | cmulv => exact cmulvEffect_succeed s
  | xchg => exact xchgEffect_succeed s
  | conv => exact convEffect_succeed s
  | wapply => exact wapplyEffect_succeed s
  | lift => exact liftEffect_succeed s
  | mag => exact magEffect_succeed s
  | wgen a =>
    simp only [effectOf]
    cases windowKind a with
    | none => rfl
    | some kind => exact wgenEffect_succeed kind s
  | analyze a =>
    simp only [effectOf]
    rcases a.toNat with _ | _ | n
    · exact analyzeEffect_succeed false s
    · exact analyzeEffect_succeed true s
    · rfl

/-- A command does the same after a success as before it. -/
theorem exec_succeed (i : Instr) (s : State) : exec i (succeed s) = exec i s := by
  rw [exec_eq_perform, exec_eq_perform, failedCheck_succeed]
  cases failedCheck i s with
  | none => rw [perform_none, perform_none, effectOf_succeed, succeed_succeed]
  | some e => rfl

/-! ### The checks along a sequence of commands -/

/-- The checks read the operand registers and `WLEN` alone. -/
theorem failedCheck_congr {s t : State} (ho : Part.operands.Same s t) (hw : Part.wlen.Same s t) (i : Instr) :
    failedCheck i t = failedCheck i s := by
  simp only [Part.Same] at ho hw
  obtain ⟨-, hlog, hylog, -, harg0, harg1, -⟩ := ho
  have hlen : t.len = s.len := by rw [State.len, State.len, hlog]
  have length : checkLength t = checkLength s := by rw [checkLength, checkLength, State.validLen, State.validLen, hlog]
  have two : checkTwoSequences t = checkTwoSequences s := by
    rw [checkTwoSequences, checkTwoSequences, length, checkOperandLength, checkOperandLength, hlog, hylog]
  have windowed : checkWindowed t = checkWindowed s := by
    rw [checkWindowed, checkWindowed, length, checkWindowMatch, checkWindowMatch, hw, hlen]
  cases i <;>
    simp only [failedCheck, length, two, windowed, checkStage, checkBrevn, checkTwiddleIndex, checkWindowLength, hlog, hlen,
      harg0, harg1]

/-- Only `WGEN` changes what a later check reads. -/
theorem failedCheck_effectOf {j : Instr} (hj : ¬ Part.wlen.Writer j) (i : Instr) (s : State) :
    failedCheck i (effectOf j s) = failedCheck i s :=
  failedCheck_congr (effectOf_same j s _ id) (effectOf_same j s _ hj) i

/-- The effects of a list of commands one after the other. -/
def effectsOf (l : List Instr) (s : State) : State := l.foldl (fun t i => effectOf i t) s

/-- Commands without `WGEN` whose checks pass at the start all succeed, one after the other. -/
theorem runAll_succeed_of_passed {l : List Instr} {s : State} (hw : ∀ i ∈ l, ¬ Part.wlen.Writer i)
    (hc : ∀ i ∈ l, failedCheck i s = none) : runAll l (succeed s) = .next (succeed (effectsOf l s)) := by
  induction l generalizing s with
  | nil => rfl
  | cons i l ih =>
    obtain ⟨hwi, hwl⟩ := List.forall_mem_cons.mp hw
    obtain ⟨hci, hcl⟩ := List.forall_mem_cons.mp hc
    rw [runAll, exec_succeed, exec_of_passed hci]
    exact ih hwl fun j hj => (failedCheck_effectOf hwi j s).trans (hcl j hj)

/-- A command whose effect is that of a list of commands ends in the state in which the list ends, when all checks pass. -/
theorem exec_eq_runAll {c i : Instr} {l : List Instr} {s : State} (he : effectOf c s = effectsOf (i :: l) s)
    (hw : ∀ j ∈ i :: l, ¬ Part.wlen.Writer j) (hc : ∀ j ∈ c :: i :: l, failedCheck j s = none) :
    ∃ t, exec c s = .next t ∧ runAll (i :: l) s = .next t ∧ t.err = .ok := by
  obtain ⟨hcc, hcl⟩ := List.forall_mem_cons.mp hc
  refine ⟨_, exec_of_passed hcc, ?_, rfl⟩
  rw [he, ← runAll_succeed_of_passed hw hcl, runAll, runAll, exec_succeed]

/-! ### The stages of a transform (R206) -/

theorem effectsOf_append (l l' : List Instr) (s : State) : effectsOf (l ++ l') s = effectsOf l' (effectsOf l s) :=
  List.foldl_append

theorem toNat_stageIndex {i : Nat} (hi : i < 255) : (BitVec.ofNat 8 (i + 1)).toNat = i + 1 := Nat.mod_eq_of_lt (by omega)

theorem effectsOf_stages {k : Nat} (hk : k ≤ 255) (s : State) :
    effectsOf (stages k) s = loop k (fun i t => stageEffect (i + 1) t) s := by
  induction k with
  | zero => rfl
  | succ k ih =>
    have last : stages (k + 1) = stages k ++ [.stage (BitVec.ofNat 8 (k + 1))] := by
      rw [stages, List.range_succ, List.map_append]
      rfl
    have stage (t : State) : effectOf (.stage (BitVec.ofNat 8 (k + 1))) t = stageEffect (k + 1) t := by
      rw [effectOf, toNat_stageIndex (by omega)]
    rw [last, effectsOf_append, ih (by omega), loop_succ]
    exact stage _

theorem fftEffect_eq_effectsOf (s : State) : fftEffect s = effectsOf (.reorder :: stages s.log2n.toNat) s :=
  (effectsOf_stages (by have := s.log2n.isLt; omega) (reorderEffect s)).symm

theorem mem_stages {k : Nat} {i : Instr} (h : i ∈ stages k) : ∃ j < k, i = .stage (BitVec.ofNat 8 (j + 1)) := by
  obtain ⟨j, hj, rfl⟩ := List.mem_map.mp h
  exact ⟨j, List.mem_range.mp hj, rfl⟩

/-- The stages of a transform pass their checks (R96, R303). -/
theorem failedCheck_of_mem_stages {s : State} (h : ValidLen s) {i : Instr} (hi : i ∈ stages s.log2n.toNat) :
    failedCheck i s = none := by
  obtain ⟨j, hj, rfl⟩ := mem_stages hi
  have index := toNat_stageIndex (i := j) (by have := s.log2n.isLt; omega)
  rw [failedCheck_stage_of_validLen h]
  exact checkStage_eq_none (by omega) (by omega)

/-! ### The checks of `ANALYZE` (R277) -/

theorem failedCheck_analyze_of_illegal {a : BitVec 8} (ha : 1 < a.toNat) (s : State) :
    failedCheck (.analyze a) s = some .illegal :=
  failedCheck_of_not_wellFormed (by rw [wellFormed_analyze_iff]; omega) s

/-! ### Obligations -/

/-- Settles O47: no command reads `ERR` or changes what the later checks read, so the effects follow one another. -/
theorem compositesArePrimitiveSequences : Obligations.CompositesArePrimitiveSequences := by
  refine ⟨⟨rfl, rfl, rfl, rfl, rfl⟩, fun s => ⟨fun h => ?_, fun h => ?_,
    fun a ha => exec_of_failed (failedCheck_analyze_of_illegal ha s)⟩⟩
  · have length := checkLength_of_validLen h
    have sequences := checkTwoSequences_of_validLen h
    have window := checkWindowed_of_validLen h
    refine ⟨?_, ?_, fun hy => ?_, fun hy => exec_of_failed (sequences.trans (if_neg hy)), ?_, fun hw => ?_,
      fun hw => exec_of_failed (window.trans (if_neg hw))⟩
    · refine exec_eq_runAll (fftEffect_eq_effectsOf s) ?_ ?_
      · refine List.forall_mem_cons.mpr ⟨by simp [Part.Writer], fun i hi => ?_⟩
        obtain ⟨j, -, rfl⟩ := mem_stages hi
        simp [Part.Writer]
      · exact List.forall_mem_cons.mpr ⟨length, List.forall_mem_cons.mpr ⟨length, fun _ => failedCheck_of_mem_stages h⟩⟩
    · exact exec_eq_runAll rfl (by simp [Part.Writer]) (by simp [failedCheck, length])
    · rw [if_pos hy] at sequences
      exact exec_eq_runAll rfl (by simp [Part.Writer]) (by simp [failedCheck, length, sequences])
    · exact exec_eq_runAll rfl (by simp [Part.Writer]) (by simp [failedCheck, length])
    · rw [if_pos hw] at window
      exact exec_eq_runAll rfl (by simp [Part.Writer]) (by simp [failedCheck, length, window])
  · have length := checkLength_of_not_validLen h
    exact ⟨exec_of_failed length, exec_of_failed length, exec_of_failed (checkTwoSequences_of_not_validLen h),
      exec_of_failed length, exec_of_failed (checkWindowed_of_not_validLen h)⟩

end Sys2Proof.Machine
end

section
/-! What the composite commands leave unchanged (44_transform.md R206, R209, R212; 46_analyzer.md R277). -/

namespace Sys2Proof.Machine

open Sys2Proof.Claims

/-! ### Frames from the parts that are written -/

section
variable {ps : List Part} {s t : State} (h : WritesOnly ps s t)
include h

theorem WritesOnly.resets_eq (ho : Part.operands ∉ ps) : t.resets = s.resets := by
  have same := h .operands ho
  simp only [Part.Same] at same
  obtain ⟨-, -, -, -, -, -, -, -, -, -, hresets, -⟩ := same
  exact hresets

theorem WritesOnly.word_eq (ho : Part.operands ∉ ps) {n : MemName} (hn : Part.mem n ∉ ps) (k : Nat) :
    t.word n k = s.word n k := by
  have hmem : t.mem n = s.mem n := h (.mem n) hn
  rw [State.word, State.word, hmem, h.resets_eq ho]

theorem WritesOnly.freq_eq (ho : Part.operands ∉ ps) (hf : Part.freqs ∉ ps) (j : Nat) : t.freq j = s.freq j := by
  have hmem : t.memOF = s.memOF := h .freqs hf
  rw [State.freq, State.freq, hmem, h.resets_eq ho]

/-- Memories apart, the registers stay, but for `OLEN` if it is written. -/
theorem WritesOnly.registers_eq
    (hps : ∀ p ∈ [Part.operands, .freeCount, .wlen, .res, .fr0, .fr1], p ∉ ps := by simp) :
    registers t = { registers s with olen := t.olen } := by
  have same (p : Part) (hp : p ∈ [Part.operands, .freeCount, .wlen, .res, .fr0, .fr1]) : p.Same s t := h p (hps p hp)
  simp only [List.forall_mem_cons, Part.Same] at same
  obtain ⟨⟨hcmd, hlog, hylog, hsrate, harg0, harg1, hfa0, hfa1, hfb0, hfb1, hresets, hport⟩, hfree, hwlen, hres, hfr0, hfr1,
    -⟩ := same
  simp only [registers, *]

theorem WritesOnly.registers_eq_of_olen (ho : Part.olen ∉ ps := by simp)
    (hps : ∀ p ∈ [Part.operands, .freeCount, .wlen, .res, .fr0, .fr1], p ∉ ps := by simp) :
    registers t = registers s := by
  have holen : t.olen = s.olen := h .olen ho
  rw [h.registers_eq hps, holen]
  rfl

end

/-- The words below `2N` of the working buffers, when those alone are written. -/
theorem memFrame_of_tailKept {s t : State} (hw : WritesOnly bufferParts s t) (ht : TailKept s t) :
    MemFrame s t (fun n k => (n = .xa ∨ n = .xb) ∧ k < 2 * s.len) := by
  refine ⟨fun n k hk => ?_, hw.freq_eq (by simp) (by simp)⟩
  by_cases hn : n = .xa ∨ n = .xb
  · obtain ⟨-, tail⟩ := ht
    obtain ⟨ha, hb⟩ := tail k (Nat.not_lt.mp fun hlt => hk ⟨hn, hlt⟩)
    rcases hn with rfl | rfl
    · exact ha
    · exact hb
  · exact hw.word_eq (by simp) (by simpa using hn) k

theorem memFrame_fft (s : State) : MemFrame s (fftEffect s) (fun n k => (n = .xa ∨ n = .xb) ∧ k < 2 * s.len) :=
  memFrame_of_tailKept (writesOnly_fft s) (tailKept_fft s)

theorem memFrame_ifft (s : State) : MemFrame s (ifftEffect s) (fun n k => (n = .xa ∨ n = .xb) ∧ k < 2 * s.len) :=
  memFrame_of_tailKept (writesOnly_ifft s) (tailKept_ifft s)

theorem memFrame_trans {s t u : State} {c : MemName → Nat → Prop} (h : MemFrame s t c) (h' : MemFrame t u c) :
    MemFrame s u c := by
  obtain ⟨words, freqs⟩ := h
  obtain ⟨words', freqs'⟩ := h'
  exact ⟨fun n k hk => (words' n k hk).trans (words n k hk), fun j => (freqs' j).trans (freqs j)⟩

theorem memFrame_mono {s t : State} {c c' : MemName → Nat → Prop} (h : MemFrame s t c) (hc : ∀ n k, c n k → c' n k) :
    MemFrame s t c' := by
  obtain ⟨words, freqs⟩ := h
  exact ⟨fun n k hk => words n k (mt (hc n k) hk), freqs⟩

/-! ### `CONV` -/

/-- The exchange writes `Y`; the rest of the convolution writes the working buffers only. -/
theorem memFrame_conv (s : State) :
    MemFrame s (convEffect s) (fun n k => (n = .xa ∨ n = .xb ∨ n = .y) ∧ k < 2 * s.len) := by
  set e := xchgEffect (fftEffect s)
  obtain ⟨len_fft, -⟩ := tailKept_fft s
  have len_e : e.len = s.len := (len_xchgEffect _).trans len_fft
  have exchange := memFrame_xchg (fftEffect s)
  have after : MemFrame e (convEffect s) (fun n k => (n = .xa ∨ n = .xb) ∧ k < 2 * e.len) :=
    memFrame_of_tailKept (((writesOnly_fft e).trans (writesOnly_cmulv _)).trans (writesOnly_ifft _))
      (((tailKept_fft e).trans (tailKept_putEntries _ _ _)).trans (tailKept_ifft _))
  rw [len_fft] at exchange
  rw [len_e] at after
  refine memFrame_trans (memFrame_trans (memFrame_mono (memFrame_fft s) ?_) (memFrame_mono exchange ?_))
    (memFrame_mono after ?_)
  · exact fun n k ⟨hn, hk⟩ => ⟨hn.imp_right .inl, hk⟩
  · rintro n k ⟨rfl | rfl, hk⟩
    · exact ⟨(working_eq_xa_or_xb _).imp_right .inl, hk⟩
    · exact ⟨.inr (.inr rfl), hk⟩
  · exact fun n k ⟨hn, hk⟩ => ⟨hn.imp_right .inl, hk⟩

/-! ### `ANALYZE` -/

theorem word_setOlen (s : State) (v : BitVec 12) (n : MemName) (k : Nat) :
    State.word { s with olen := v } n k = s.word n k := by
  cases n <;> rfl

/-- The words after `MAG` (R272). -/
theorem word_magEffect (s : State) (n : MemName) (k : Nat) :
    (magEffect s).word n k = if n = .om ∧ k < s.len / 2 - 1 then magnitudeOf (s.x (k + 1)) else s.word n k := by
  rw [magEffect, word_setOlen, word_putFreqs, word_putWords]

/-- The frequencies after `MAG` (R272, R274). -/
theorem freq_magEffect (s : State) (j : Nat) :
    (magEffect s).freq j = if j < s.len / 2 - 1 then frequency s (j + 1) else s.freq j := by
  have written := freq_putFreqs (s.putWords .om (s.len / 2 - 1) fun j => magnitudeOf (s.x (j + 1))) (s.len / 2 - 1) j
    fun j => frequency s (j + 1)
  rwa [freq_putWords] at written

theorem olen_magEffect {s : State} (h : s.len ≤ 8192) : (magEffect s).olen.toNat = s.len / 2 - 1 :=
  Nat.mod_eq_of_lt (by omega)

/-- What `ANALYZE` does before the transform, by its flag (R277). -/
def windowEffect (windowed : Bool) (s : State) : State := if windowed then wapplyEffect s else s

theorem analyzeEffect_eq (windowed : Bool) (s : State) :
    analyzeEffect windowed s = magEffect (fftEffect (liftEffect (windowEffect windowed s))) := rfl

theorem word_windowEffect {windowed : Bool} {n : MemName} {k : Nat} {s : State}
    (h : ¬ (windowed = true ∧ n = .s ∧ k < s.len)) : (windowEffect windowed s).word n k = s.word n k := by
  unfold windowEffect
  split
  · next hw => rw [wapplyEffect, word_putWords, if_neg fun hn => h ⟨hw, hn⟩]
  · rfl

theorem freq_windowEffect (windowed : Bool) (s : State) (j : Nat) : (windowEffect windowed s).freq j = s.freq j := by
  cases windowed <;> simp [windowEffect, wapplyEffect]

theorem len_windowEffect (windowed : Bool) (s : State) : (windowEffect windowed s).len = s.len := by
  cases windowed <;> simp [windowEffect, wapplyEffect]

theorem tailKept_liftFft (s : State) : TailKept s (fftEffect (liftEffect s)) :=
  (tailKept_putEntries s _ _).trans (tailKept_fft _)

theorem memFrame_liftFft (s : State) :
    MemFrame s (fftEffect (liftEffect s)) (fun n k => (n = .xa ∨ n = .xb) ∧ k < 2 * s.len) :=
  memFrame_of_tailKept ((writesOnly_putWorking s _ _).trans (writesOnly_fft _)) (tailKept_liftFft s)

/-- The transform that `MAG` reads has the length of the state before the window. -/
theorem len_transformed (windowed : Bool) (s : State) : (fftEffect (liftEffect (windowEffect windowed s))).len = s.len := by
  obtain ⟨len, -⟩ := tailKept_liftFft (windowEffect windowed s)
  rw [len, len_windowEffect]

theorem word_analyzeEffect {windowed : Bool} {s : State} {n : MemName} {k : Nat}
    (hbuffers : ¬ ((n = .xa ∨ n = .xb) ∧ k < 2 * s.len)) (hsamples : ¬ (windowed = true ∧ n = .s ∧ k < s.len))
    (hmagnitudes : ¬ (n = .om ∧ k < s.len / 2 - 1)) : (analyzeEffect windowed s).word n k = s.word n k := by
  obtain ⟨words, -⟩ := memFrame_liftFft (windowEffect windowed s)
  rw [analyzeEffect_eq, word_magEffect, len_transformed, if_neg hmagnitudes, words n k (by rwa [len_windowEffect]),
    word_windowEffect hsamples]

theorem freq_analyzeEffect {windowed : Bool} {s : State} {j : Nat} (h : s.len / 2 - 1 ≤ j) :
    (analyzeEffect windowed s).freq j = s.freq j := by
  obtain ⟨-, freqs⟩ := memFrame_liftFft (windowEffect windowed s)
  rw [analyzeEffect_eq, freq_magEffect, len_transformed, if_neg h.not_gt, freqs, freq_windowEffect]

theorem olen_analyzeEffect {windowed : Bool} {s : State} (h : s.len ≤ 8192) :
    (analyzeEffect windowed s).olen.toNat = s.len / 2 - 1 := by
  rw [analyzeEffect_eq, olen_magEffect (by rwa [len_transformed]), len_transformed]

/-- The flag of an `ANALYZE` whose checks pass is 0 or 1 (R277). -/
theorem effectOf_analyze_of_passed {a : BitVec 8} {s : State} (h : failedCheck (.analyze a) s = none) :
    ∃ windowed, effectOf (.analyze a) s = analyzeEffect windowed s ∧ (windowed = true → a = 1) := by
  have legal : a.toNat ≤ 1 := by
    by_contra hgt
    rw [failedCheck_analyze_of_illegal (Nat.not_le.mp hgt)] at h
    cases h
  rcases Nat.le_one_iff_eq_zero_or_eq_one.mp legal with h0 | h1
  · exact ⟨false, by simp [effectOf, h0], nofun⟩
  · exact ⟨true, by simp [effectOf, h1], fun _ => BitVec.eq_of_toNat_eq h1⟩

/-! ### Obligations -/

/-- Settles O48: a command that ends with `ERR = 0` had its effect, whose frame is that of its primitive effects. -/
theorem compositeFrames : Obligations.CompositeFrames := by
  refine fun s t hok => ⟨fun h => ?_, fun h => ?_, fun a h => ?_⟩
  · rcases h with h | h <;> obtain ⟨-, rfl⟩ := exec_ok h hok <;> rw [registers_succeed, effectOf]
    · exact ⟨(writesOnly_fft s).registers_eq_of_olen, memFrame_succeed (memFrame_fft s)⟩
    · exact ⟨(writesOnly_ifft s).registers_eq_of_olen, memFrame_succeed (memFrame_ifft s)⟩
  · obtain ⟨-, rfl⟩ := exec_ok h hok
    rw [registers_succeed, effectOf]
    exact ⟨(writesOnly_conv s).registers_eq_of_olen, memFrame_succeed (memFrame_conv s)⟩
  · obtain ⟨passed, rfl⟩ := exec_ok h hok
    obtain ⟨windowed, effect, flag⟩ := effectOf_analyze_of_passed passed
    rw [effect, registers_succeed, succeed_olen]
    refine ⟨(writesOnly_analyze windowed s).registers_eq, olen_analyzeEffect ?_, fun n k hk => ?_, fun j hj => ?_⟩
    · exact len_le_of_validLen (validLen_of_failedCheck rfl passed)
    · rw [not_or, not_or] at hk
      obtain ⟨hbuffers, hsamples, hmagnitudes⟩ := hk
      rw [word_succeed, word_analyzeEffect hbuffers (fun ⟨hw, hn, hlt⟩ => hsamples ⟨hn, flag hw, hlt⟩) hmagnitudes]
    · rw [freq_succeed, freq_analyzeEffect hj]

end Sys2Proof.Machine
end

section
/-! The transform of an impulse (44_transform.md R206): after each stage the ones reach twice as far. -/

namespace Sys2Proof.Machine

open Sys2Proof.Claims

/-- Ones below `2^k`, zeros from there on. -/
def stepEntry (k e : Nat) : C64 := if e < 2 ^ k then ⟨one, posZero⟩ else ⟨posZero, posZero⟩

/-- `X[0..N-1]` holds ones below `2^k` and zeros from there on. -/
def HoldsStep (k : Nat) (s : State) : Prop := ∀ e < s.len, s.x e = stepEntry k e

theorem stepEntry_congr {k k' e e' : Nat} (h : e < 2 ^ k ↔ e' < 2 ^ k') : stepEntry k e = stepEntry k' e' := by
  simp only [stepEntry, h]

theorem isZero_stepEntry {k e : Nat} (h : 2 ^ k ≤ e) :
    isZero (stepEntry k e).re = true ∧ isZero (stepEntry k e).im = true := by
  rw [stepEntry, if_neg h.not_gt]
  exact ⟨rfl, rfl⟩

/-- Neither sign of a zero is seen beside a one or a `+0`. -/
theorem cadd_csub_stepEntry (k e : Nat) {z : C64} (hz : isZero z.re = true ∧ isZero z.im = true) :
    cadd (stepEntry k e) z = stepEntry k e ∧ csub (stepEntry k e) z = stepEntry k e := by
  obtain ⟨hre, him⟩ := hz
  unfold stepEntry
  split
  · simp [cadd, csub, fadd_one_of_isZero hre, fsub_one_of_isZero hre, fadd_posZero_of_isZero him, fsub_posZero_of_isZero him]
  · simp [cadd, csub, fadd_posZero_of_isZero hre, fsub_posZero_of_isZero hre, fadd_posZero_of_isZero him,
      fsub_posZero_of_isZero him]

/-- A zero times an entry of the twiddle table is zero, since every entry is finite (R140). -/
theorem isZero_cmul_twiddle {x : C64} (hx : isZero x.re = true ∧ isZero x.im = true) (k n : Nat) :
    isZero (cmul x (twiddle k n)).re = true ∧ isZero (cmul x (twiddle k n)).im = true :=
  isZero_cmul hx.1 hx.2 (isFinite_cosF _) (isFinite_sinF _)

/-! ### The bit reversal -/

theorem x_reorderEffect_eq {s : State} {e : Nat} (he : e < s.len) : (reorderEffect s).x e = s.x (brevn e s.log2n.toNat) := by
  have moved := x_reorderEffect (s := s) (brevn_lt e s.log2n.toNat)
  rwa [brevn_brevn he] at moved

theorem brevn_of_zero (n : Nat) : brevn 0 n = 0 := by rw [brevn, brevnLoop_zero_value, Nat.zero_mul]

/-- The bit reversal leaves the impulse where it is. -/
theorem holdsStep_reorder {s : State} (h : HoldsStep 0 s) : HoldsStep 0 (reorderEffect s) := by
  intro e he
  have len : (reorderEffect s).len = s.len := len_produce s _
  rw [len] at he
  rw [x_reorderEffect_eq he, h _ (brevn_lt e s.log2n.toNat)]
  refine stepEntry_congr ?_
  rw [pow_zero, Nat.lt_one_iff, Nat.lt_one_iff]
  constructor
  · intro h0
    rw [← brevn_brevn he, h0, brevn_of_zero]
  · rintro rfl
    exact brevn_of_zero _

/-! ### One stage -/

/-- The pairs: the second of each is zero. -/
theorem holdsStep_stage_one {s : State} (hl : 1 ≤ s.log2n.toNat) (h : HoldsStep 0 s) : HoldsStep 1 (stageEffect 1 s) := by
  intro e he
  have len : (stageEffect 1 s).len = s.len := len_produce s _
  have even : 2 * (s.len / 2) = s.len := Nat.mul_div_cancel' (dvd_pow_self 2 (by omega))
  rw [len] at he
  rw [x_stageEffect_one (by omega)]
  split
  · rw [h e he, h (e + 1) (by omega), (cadd_csub_stepEntry 0 e (isZero_stepEntry (by omega))).1]
    exact stepEntry_congr (by omega)
  · rw [h (e - 1) (by omega), h e he, (cadd_csub_stepEntry 0 (e - 1) (isZero_stepEntry (by omega))).2]
    exact stepEntry_congr (by omega)

/-- The butterflies: the second half of each block is zero. -/
theorem holdsStep_stage_succ {s : State} {d : Nat} (hd : d ≠ 0) (hl : d + 1 ≤ s.log2n.toNat) (h : HoldsStep d s) :
    HoldsStep (d + 1) (stageEffect (d + 1) s) := by
  intro e he
  have len : (stageEffect (d + 1) s).len = s.len := len_produce s _
  have blocks : s.len / 2 ^ (d + 1) * 2 ^ (d + 1) = s.len := Nat.div_mul_cancel (pow_dvd_pow 2 hl)
  have size : 2 ^ (d + 1) = 2 * 2 ^ d := pow_succ' 2 d
  rw [len] at he
  rw [x_stageEffect_succ hd (by rwa [blocks]), butterflyEntry]
  have first_block : e < 2 * 2 ^ d → e / (2 * 2 ^ d) = 0 := Nat.div_eq_of_lt
  have inside : e / (2 * 2 ^ d) * (2 * 2 ^ d) ≤ e := Nat.div_mul_le_self _ _
  have block_end : e / (2 * 2 ^ d) * (2 * 2 ^ d) + 2 * 2 ^ d ≤ s.len := by
    rw [size] at blocks
    rw [← blocks, ← Nat.succ_mul]
    exact Nat.mul_le_mul_right _ (Nat.div_lt_div_of_lt_of_dvd (Dvd.intro_left _ blocks) he)
  split
  · next first =>
    rw [h e he, h (e + 2 ^ d) (by omega),
      (cadd_csub_stepEntry d e (isZero_cmul_twiddle (isZero_stepEntry (by omega)) _ _)).1]
    refine stepEntry_congr ⟨fun _ => by omega, fun hlt => ?_⟩
    rw [first_block (by omega)] at first
    omega
  · next second =>
    rw [h (e - 2 ^ d) (by omega), h e he,
      (cadd_csub_stepEntry d (e - 2 ^ d) (isZero_cmul_twiddle (isZero_stepEntry (by omega)) _ _)).2]
    exact stepEntry_congr (by omega)

theorem holdsStep_stage {s : State} {k : Nat} (hl : k + 1 ≤ s.log2n.toNat) (h : HoldsStep k s) :
    HoldsStep (k + 1) (stageEffect (k + 1) s) := by
  rcases Nat.eq_zero_or_pos k with rfl | hk
  · exact holdsStep_stage_one hl h
  · exact holdsStep_stage_succ hk.ne' hl h

/-! ### The transform -/

theorem holdsStep_fft {s : State} (h : HoldsStep 0 s) : HoldsStep s.log2n.toNat (fftEffect s) := by
  have every_stage : (fftEffect s).log2n = s.log2n ∧ HoldsStep s.log2n.toNat (fftEffect s) :=
    loop_induction (fun k (t : State) => t.log2n = s.log2n ∧ HoldsStep k t)
      ⟨State.produce_log2n s _, holdsStep_reorder h⟩
      fun k hk t ⟨hlog, ht⟩ => ⟨(State.produce_log2n t _).trans hlog, holdsStep_stage (hlog ▸ hk) ht⟩
  exact every_stage.2

/-- Settles O49: the ones of the impulse reach `N` after the last stage. -/
theorem fftOfImpulseIsOnes : Obligations.FftOfImpulseIsOnes := by
  intro s hl h0 hrest
  have impulse : HoldsStep 0 s := by
    intro e he
    rcases Nat.eq_zero_or_pos e with rfl | hpos
    · exact h0
    · rw [hrest e hpos he, stepEntry, if_neg (by omega)]
  refine ⟨_, exec_of_passed (checkLength_of_validLen hl), sel_fftEffect s, fun i hi => ?_⟩
  obtain ⟨len, -⟩ := tailKept_fft s
  rw [x_succeed, effectOf, holdsStep_fft impulse i (len ▸ hi)]
  exact if_pos hi

end Sys2Proof.Machine
end

section
/-! Windows (45_window.md R240 to R250): the words that `WGEN` and `WAPPLY` write in place, and the coefficients at both ends. -/

namespace Sys2Proof.Machine

open Sys2Proof.Claims

/-! ### Real words written in place (R34) -/

theorem registers_putWords (s : State) (m : MemName) (n : Nat) (f : Nat → F64) :
    registers (s.putWords m n f) = registers s := by
  cases m <;> rfl

theorem memFrame_putWords (s : State) (m : MemName) (n : Nat) (f : Nat → F64) :
    MemFrame s (s.putWords m n f) (fun m' k => m' = m ∧ k < n) :=
  ⟨fun _ _ hk => by rw [word_putWords, if_neg hk], freq_putWords s m n f⟩

theorem wroteInPlace_putWords (s : State) (m : MemName) (n : Nat) (f : Nat → F64) :
    WroteInPlace s (succeed (s.putWords m n f)) m n :=
  ⟨rfl, State.putWords_sel s m n f, registers_putWords s m n f, memFrame_succeed (memFrame_putWords s m n f)⟩

theorem word_setWlen (s : State) (v : BitVec 14) (n : MemName) (k : Nat) :
    State.word { s with wlen := v } n k = s.word n k := by
  cases n <;> rfl

/-! ### Kinds and their codes (R94) -/

/-- The code that names a window kind (R94). -/
def kindCode : WindowKind → Nat
  | .hamming => 0
  | .hann => 1
  | .blackman => 2
  | .bartlett => 3
  | .flatTop => 4

theorem toNat_of_windowKind {a : BitVec 8} {kind : WindowKind} (h : windowKind a = some kind) : a.toNat = kindCode kind := by
  unfold windowKind at h
  split at h <;> cases h
  all_goals assumption

theorem eq_bartlett_of_kindCode {kind : WindowKind} (h : kindCode kind = 3) : kind = .bartlett := by
  revert h
  cases kind <;> decide

theorem exists_windowKind {a : BitVec 8} (h : a.toNat ≤ 4) : ∃ kind, windowKind a = some kind :=
  Option.ne_none_iff_exists'.mp (mt (windowKind_eq_none_iff a).mp (not_not.mpr h))

theorem windowCoeff_eq_windowFormula (kind : WindowKind) (n len : Nat) :
    windowCoeff kind n len = windowFormula (kindCode kind) n len := by
  unfold windowFormula
  cases kind with
  | hamming => simp only [windowCoeff, kindCode, warg, c0_54, c0_46]
  | hann => simp only [windowCoeff, kindCode, warg, half]
  | blackman => simp only [windowCoeff, kindCode, warg, half, c0_42, c0_08]
  | bartlett => simp only [windowCoeff, kindCode, two]
  | flatTop => simp only [windowCoeff, kindCode, warg, c0_2156, c0_4166, c0_2773, c0_0836, c0_0069]

/-! ### The ends of a window (R242 to R246) -/

theorem cosF_posZero : cosF posZero = one := if_pos (by decide)

/-- The angle, and Bartlett's ratio, at `n = 0`. -/
theorem fdiv_fmul_i2f_zero {a : F64} {d : Nat} (ha : isFinite a = true) (hs : signBit a = false) (h0 : 1 ≤ d) (hd : d ≤ 8192) :
    fdiv (fmul a (i2f 0)) (i2f d) = posZero := by
  have product : fmul a (i2f 0) = posZero := by
    rw [fmul_i2f ha (Nat.zero_le _), hs, mul_zero, roundUnits_zero]
    rfl
  have zero : magnitude posZero = 0 := by decide
  rw [product, fdiv_i2f (by decide) h0 hd, zero, roundUnits_zero]
  rfl

/-- At `n = 0` every cosine is 1, so each coefficient is a value of the constants alone. -/
theorem windowCoeff_zero (kind : WindowKind) {len : Nat} (h2 : 2 ≤ len) (hl : len ≤ 8192) :
    windowCoeff kind 0 len = startValue (kindCode kind) := by
  have ratio {a : F64} (ha : isFinite a = true) (hs : signBit a = false) :
      fdiv (fmul a (i2f 0)) (i2f (len - 1)) = posZero :=
    fdiv_fmul_i2f_zero ha hs (by omega) (by omega)
  have angle {k : F64} (hk : isFinite k = true) (hs : signBit k = false) : cosF (warg k 0 len) = one := by
    rw [warg, ratio hk hs, cosF_posZero]
  have c2 : cosF (warg k2 0 len) = one := angle (by decide) (by decide)
  have c4 : cosF (warg k4 0 len) = one := angle (by decide) (by decide)
  have c6 : cosF (warg k6 0 len) = one := angle (by decide) (by decide)
  have c8 : cosF (warg k8 0 len) = one := angle (by decide) (by decide)
  cases kind with
  | hamming => rw [windowCoeff, c2]; decide +kernel
  | hann => rw [windowCoeff, c2]; decide +kernel
  | blackman => rw [windowCoeff, c2, c4]; decide +kernel
  | bartlett =>
    rw [windowCoeff, if_pos (Nat.zero_le _), ratio (by decide) (by decide)]
    rfl
  | flatTop => rw [windowCoeff, c2, c4, c6, c8]; decide +kernel

/-- Doubling an integer is exact. -/
theorem fmul_two_i2f {n : Nat} (hn : n ≤ 8192) :
    isFinite (fmul two (i2f n)) = true ∧ signBit (fmul two (i2f n)) = false ∧
      magnitude (fmul two (i2f n)) = magnitude two * n := by
  have unit : magnitude two = 2 ^ 1075 := by decide +kernel
  obtain ⟨y, hf, hs, hm⟩ := exists_magnitude (t := 1075) (q := n) (by decide) (by omega)
  have product : fmul two (i2f n) = y := by
    have rounded := withSign_roundUnits_magnitude hf
    rw [hs, hm, mul_comm, ← unit] at rounded
    exact (fmul_i2f (by decide) hn).trans rounded
  rw [product, unit, mul_comm]
  exact ⟨hf, hs, hm⟩

theorem fdiv_fmul_two_i2f_self {n : Nat} (h0 : 1 ≤ n) (hn : n ≤ 8192) : fdiv (fmul two (i2f n)) (i2f n) = two := by
  obtain ⟨finite, sign, size⟩ := fmul_two_i2f hn
  have rounded : withSign (signBit two) (roundUnits (magnitude two) 1) = two := withSign_roundUnits_magnitude (by decide)
  rw [fdiv_i2f finite h0 hn, sign, size, roundUnits_mul_self_right h0]
  exact rounded

theorem windowCoeff_bartlett_last {len : Nat} (h2 : 2 ≤ len) (hl : len ≤ 8192) :
    windowCoeff .bartlett (len - 1) len = posZero := by
  rw [windowCoeff, if_neg (by omega), fdiv_fmul_two_i2f_self (by omega) (by omega)]
  decide +kernel

/-! ### `WGEN` (R247) -/

theorem exec_wgen_of_legal {a : BitVec 8} {s : State} (ha : a.toNat ≤ 4) (hl : s.arg0.toNat ≤ 8192) :
    ∃ kind, a.toNat = kindCode kind ∧ exec (.wgen a) s = .next (succeed (wgenEffect kind s)) := by
  obtain ⟨kind, hk⟩ := exists_windowKind ha
  have passed : failedCheck (.wgen a) s = none := by
    simp [failedCheck, hk, checkWindowLength_eq, hl]
  refine ⟨kind, toNat_of_windowKind hk, ?_⟩
  rw [exec_of_passed passed, effectOf, hk]

theorem word_wgenEffect (kind : WindowKind) (s : State) (n : MemName) (k : Nat) :
    (wgenEffect kind s).word n k = if n = .w ∧ k < s.arg0.toNat then generated kind s.arg0.toNat k else s.word n k := by
  rw [wgenEffect, word_setWlen, word_putWords]

theorem word_wgenEffect_of_lt {kind : WindowKind} {s : State} {n : Nat} (h2 : 2 ≤ s.arg0.toNat) (hn : n < s.arg0.toNat) :
    (wgenEffect kind s).word .w n = windowCoeff kind n s.arg0.toNat := by
  rw [word_wgenEffect, if_pos ⟨rfl, hn⟩, generated, if_neg (by omega)]

theorem memFrame_wgen (kind : WindowKind) (s : State) :
    MemFrame s (wgenEffect kind s) (fun n k => n = .w ∧ k < s.arg0.toNat) :=
  ⟨fun _ _ hk => by rw [word_wgenEffect, if_neg hk],
    freq_putWords s .w s.arg0.toNat (generated kind s.arg0.toNat)⟩

theorem registers_wgenEffect (kind : WindowKind) (s : State) :
    registers (wgenEffect kind s) = { registers s with wlen := (wgenEffect kind s).wlen } := rfl

theorem decode_wgen {a : BitVec 8} (ha : a.toNat ≤ 4) : decode (0x00000020#32 ||| a.setWidth 32 <<< 8) = .ok (.wgen a) :=
  (decode_eq_ok_iff _ _).mpr
    ⟨⟨0x20, .ca, .wgen⟩, by simp [opcodeMap], a, nofun, commandWord_eq_or 0x20 a, rfl, (wellFormed_wgen_iff a).mpr ha⟩

/-! ### Obligations -/

/-- Settles O50: the effect of the kind that the code names is the formula of that code. -/
theorem wgenWritesTheWindow : Obligations.WgenWritesTheWindow := by
  refine ⟨fun a ha => decode_wgen ha, fun s a => ⟨fun ha hl => ?_, fun ha => ?_, fun ha hl => ?_⟩⟩
  · obtain ⟨kind, code, done⟩ := exec_wgen_of_legal ha hl
    refine ⟨_, done, rfl, sel_wgenEffect kind s, Nat.mod_eq_of_lt (by omega), registers_wgenEffect kind s,
      memFrame_succeed (memFrame_wgen kind s), fun h1 => ?_, fun h2 n hn => ?_⟩
    · rw [word_succeed, word_wgenEffect, if_pos ⟨rfl, by omega⟩, generated, if_pos h1]
      rfl
    · rw [word_succeed, word_wgenEffect_of_lt h2 hn, code, windowCoeff_eq_windowFormula]
  · exact exec_of_failed (failedCheck_of_not_wellFormed (by rw [wellFormed_wgen_iff]; omega) s)
  · obtain ⟨kind, hk⟩ := exists_windowKind ha
    exact exec_of_failed (by simp [failedCheck, hk, checkWindowLength_eq, hl])

/-- Settles O51: a cosine at `+0` is 1 for every kernel, and at Bartlett's last index the ratio is exactly 2. -/
theorem windowEndPoints : Obligations.WindowEndPoints := by
  intro s a ha h2 hl
  obtain ⟨kind, code, done⟩ := exec_wgen_of_legal ha hl
  refine ⟨_, done, ?_, fun h3 => ?_⟩
  · rw [word_succeed, word_wgenEffect_of_lt h2 (by omega), windowCoeff_zero kind h2 hl, code]
  · obtain rfl := eq_bartlett_of_kindCode (code.symm.trans h3)
    rw [word_succeed, word_wgenEffect_of_lt h2 (by omega), windowCoeff_bartlett_last h2 hl]

/-- Settles O52: the words below `N` are written in place, once the window has the length of the block. -/
theorem wapplyMultipliesSamples : Obligations.WapplyMultipliesSamples := by
  refine ⟨rfl, fun s => ⟨fun h hw => ?_, fun h => exec_of_failed (checkWindowed_of_not_validLen h),
    fun h hw => exec_of_failed ((checkWindowed_of_validLen h).trans (if_neg hw))⟩⟩
  refine ⟨_, exec_of_passed ((checkWindowed_of_validLen h).trans (if_pos hw)), wroteInPlace_putWords s _ _ _,
    fun i (hi : i < s.len) => ?_⟩
  rw [word_succeed, effectOf, wapplyEffect, word_putWords, if_pos ⟨rfl, hi⟩]

end Sys2Proof.Machine
end

section
/-! The block sizes (45_window.md R258, R259). -/

namespace Sys2Proof.Machine

/-! ### The Supported Block Size Set (R17) -/

theorem mem_blockSizes_iff (m : Nat) : m ∈ Config.blockSizes ↔ ∃ e, 3 ≤ e ∧ e ≤ 13 ∧ m = 2 ^ e := by
  constructor
  · intro h
    have powers : ∀ m ∈ Config.blockSizes, 3 ≤ m.log2 ∧ m.log2 ≤ 13 ∧ m = 2 ^ m.log2 := by decide
    exact ⟨_, powers m h⟩
  · rintro ⟨e, h3, h13, rfl⟩
    interval_cases e <;> decide

theorem le_of_mem_blockSizes {m : Nat} (h : m ∈ Config.blockSizes) : m ≤ 8192 := by
  have bounded : ∀ m ∈ Config.blockSizes, m ≤ 8192 := by decide
  exact bounded m h

/-- In an ascending list the first member not below `r` is the least such, if there is one. -/
theorem firstNotBelow_cases (r : Nat) {l : List Nat} (hl : l.Pairwise (· ≤ ·)) :
    (firstNotBelow r l ∈ l ∧ r ≤ firstNotBelow r l ∧ ∀ m ∈ l, r ≤ m → firstNotBelow r l ≤ m) ∨
      (firstNotBelow r l = Config.nMax ∧ ∀ m ∈ l, m < r) := by
  induction l with
  | nil => exact .inr ⟨rfl, nofun⟩
  | cons m ms ih =>
    obtain ⟨least, rest⟩ := List.pairwise_cons.mp hl
    rw [firstNotBelow]
    split
    · next hr => exact .inl ⟨List.mem_cons_self, hr, List.forall_mem_cons.mpr ⟨fun _ => le_rfl, fun n hn _ => least n hn⟩⟩
    · next hr =>
      obtain ⟨mem, le, first⟩ | ⟨none, below⟩ := ih rest
      · exact .inl ⟨List.mem_cons_of_mem _ mem, le, List.forall_mem_cons.mpr ⟨fun h => absurd h hr, first⟩⟩
      · exact .inr ⟨none, List.forall_mem_cons.mpr ⟨Nat.not_le.mp hr, below⟩⟩

/-! ### `RESOLVE` -/

/-- R258: the smallest member not below the request, or 8192 above that. -/
theorem resolveSize_cases (r : Nat) :
    (r ≤ 8192 ∧ resolveSize r ∈ Config.blockSizes ∧ r ≤ resolveSize r ∧
        ∀ m ∈ Config.blockSizes, r ≤ m → resolveSize r ≤ m) ∨
      (8192 < r ∧ resolveSize r = 8192) := by
  obtain ⟨mem, le, first⟩ | ⟨last, below⟩ := firstNotBelow_cases r (l := Config.blockSizes) (by decide)
  · exact .inl ⟨le.trans (le_of_mem_blockSizes mem), mem, le, first⟩
  · exact .inr ⟨below 8192 (by decide), last⟩

theorem resolveSize_mem (r : Nat) : resolveSize r ∈ Config.blockSizes := by
  obtain ⟨-, mem, -⟩ | ⟨-, last⟩ := resolveSize_cases r
  · exact mem
  · rw [last]
    decide

theorem resolveSize_of_mem {r : Nat} (h : r ∈ Config.blockSizes) : resolveSize r = r := by
  obtain ⟨-, -, le, first⟩ | ⟨above, -⟩ := resolveSize_cases r
  · exact (first r h le_rfl).antisymm le
  · exact absurd (le_of_mem_blockSizes h) above.not_ge

theorem resolveSize_mono {r r' : Nat} (h : r ≤ r') : resolveSize r ≤ resolveSize r' := by
  obtain ⟨hr', mem', le', -⟩ | ⟨-, last'⟩ := resolveSize_cases r'
  · obtain ⟨-, -, -, first⟩ | ⟨above, -⟩ := resolveSize_cases r
    · exact first _ mem' (h.trans le')
    · omega
  · rw [last']
    exact le_of_mem_blockSizes (resolveSize_mem r)

theorem exec_resolve (s : State) : exec .resolve s = .next (succeed (resolveEffect s)) := exec_of_passed rfl

theorem toNat_res_resolveEffect (s : State) : (resolveEffect s).res.toNat = resolveSize s.arg0.toNat :=
  Nat.mod_eq_of_lt ((le_of_mem_blockSizes (resolveSize_mem _)).trans_lt (by decide))

/-! ### `ASBLOCK` -/

theorem exec_asblock (s : State) :
    exec .asblock s = .next { s with res := BitVec.ofNat 32 (asBlock s.arg0.toNat), err := .ok } := exec_of_passed rfl

/-! ### Obligations -/

/-- Settles O53: the set is ascending, so the first member not below the request is the least. -/
theorem resolveGivesSmallestMember : Obligations.ResolveGivesSmallestMember := by
  refine ⟨rfl, fun s => ⟨_, exec_resolve s, rfl, ?_⟩, fun s s' t t' hle h h' => ?_⟩
  · have result : (succeed (resolveEffect s)).res.toNat = resolveSize s.arg0.toNat := toNat_res_resolveEffect s
    rw [result]
    refine ⟨(mem_blockSizes_iff _).mp (resolveSize_mem _), fun hin => ?_, fun hout => ?_, fun e h3 h13 he => ?_⟩
    · obtain ⟨-, -, le, first⟩ | ⟨above, -⟩ := resolveSize_cases s.arg0.toNat
      · exact ⟨le, fun e h3 h13 => first _ ((mem_blockSizes_iff _).mpr ⟨e, h3, h13, rfl⟩)⟩
      · omega
    · obtain ⟨hin, -⟩ | ⟨-, last⟩ := resolveSize_cases s.arg0.toNat
      · omega
      · exact last
    · exact BitVec.eq_of_toNat_eq (result.trans (resolveSize_of_mem ((mem_blockSizes_iff _).mpr ⟨e, h3, h13, he⟩)))
  · rw [exec_resolve] at h h'
    cases h
    cases h'
    rw [succeed_res, succeed_res, toNat_res_resolveEffect, toNat_res_resolveEffect]
    exact resolveSize_mono hle

/-- Settles O54: the lookup asks for membership in the set. -/
theorem asblockTestsMembership : Obligations.AsblockTestsMembership := by
  refine ⟨rfl, fun s => ⟨fun h => ?_, fun h => ?_⟩⟩
  · rw [exec_asblock, asBlock, if_pos ((mem_blockSizes_iff _).mpr h), BitVec.ofNat_toNat, BitVec.setWidth_eq]
  · rw [exec_asblock, asBlock, if_neg (mt (mem_blockSizes_iff _).mp h)]
    rfl

end Sys2Proof.Machine
end

section
/-! The magnitude of a bin (46_analyzer.md R273, R275): what the sum of two squares and its root do with NaN and infinite
parts. -/

namespace Sys2Proof.Machine

/-! ### One square, one sum, one root -/

/-- The rounding yields no NaN (R111). -/
theorem isNaN_withSign (neg : Bool) {p : Nat} (hp : p ≤ infPattern) : isNaN (withSign neg p) = false := by
  rcases hp.lt_or_eq with hlt | rfl
  · exact isNaN_of_isFinite (isFinite_withSign neg hlt)
  · exact isNaN_of_isInf (isInf_withSign_infPattern neg)

theorem fmul_self_of_isInf {a : F64} (h : isInf a = true) : fmul a a = posInf := by
  rw [fmul_of_isInf h (isNaN_of_isInf h), isZero_of_isInf h, bne_self_eq_false]
  decide

/-- The one product of non-NaN values that is invalid is zero by infinity, and a square is none (R113). -/
theorem isNaN_fmul_self {a : F64} (h : isNaN a = false) : isNaN (fmul a a) = false := by
  rcases isFinite_or_isInf h with hf | hi
  · rw [fmul_of_isFinite hf hf]
    exact isNaN_withSign _ (roundUnits_le _ _)
  · rw [fmul_self_of_isInf hi]
    decide

theorem fadd_posInf {a : F64} (hn : isNaN a = false) (hs : signBit a = false) : fadd posInf a = posInf := by
  have infinite : isInf posInf = true := by decide
  have positive : signBit posInf = false := by decide
  rcases isFinite_or_isInf hn with hf | hi
  · exact fadd_of_isInf_of_isFinite infinite hf
  · rw [fadd_of_isInf infinite hi, if_pos (positive.trans hs.symm)]

/-- R115: the root of a NaN has sign 0 too, being the canonical one. -/
theorem signBit_fsqrt {a : F64} (h : isNaN a = true ∨ signBit a = false) : signBit (fsqrt a) = false := by
  cases hn : isNaN a with
  | true =>
    rw [fsqrt_of_isNaN hn]
    decide
  | false =>
    have sign : signBit a = false := h.resolve_left (by simp [hn])
    simp only [fsqrt, hn, sign, Bool.false_eq_true, if_false]
    split_ifs
    · exact sign
    · exact sign
    · exact signBit_withSign _ (roundSqrt_le _)

/-! ### The magnitude -/

theorem signBit_magnitudeOf (c : C64) : signBit (magnitudeOf c) = false :=
  signBit_fsqrt (fadd_nonneg (fmul_self_nonneg c.re) (fmul_self_nonneg c.im))

theorem magnitudeOf_of_isNaN {c : C64} (h : isNaN c.re = true ∨ isNaN c.im = true) : magnitudeOf c = qNaN := by
  have sum : fadd (fmul c.re c.re) (fmul c.im c.im) = qNaN :=
    fadd_of_isNaN (h.imp (fun hre => isNaN_fmul (.inl hre)) fun him => isNaN_fmul (.inl him))
  rw [magnitudeOf, sum, fsqrt_of_isNaN isNaN_qNaN]

/-- The magnitude does not depend on the order of the parts. -/
theorem magnitudeOf_swap (a b : F64) : magnitudeOf ⟨a, b⟩ = magnitudeOf ⟨b, a⟩ := by
  rw [magnitudeOf, magnitudeOf, fadd_comm]

theorem magnitudeOf_of_isInf_left {a b : F64} (ha : isInf a = true) (hb : isNaN b = false) : magnitudeOf ⟨a, b⟩ = posInf := by
  have square := isNaN_fmul_self hb
  have sign : signBit (fmul b b) = false := (fmul_self_nonneg b).resolve_left (by simp [square])
  rw [magnitudeOf, fmul_self_of_isInf ha, fadd_posInf square sign]
  decide

/-- R275: an infinite part makes the magnitude infinite, unless the other is a NaN. -/
theorem magnitudeOf_of_isInf {c : C64}
    (h : isInf c.re = true ∧ isNaN c.im = false ∨ isInf c.im = true ∧ isNaN c.re = false) : magnitudeOf c = posInf := by
  rcases h with ⟨hre, him⟩ | ⟨him, hre⟩
  · exact magnitudeOf_of_isInf_left hre him
  · exact (magnitudeOf_swap c.re c.im).trans (magnitudeOf_of_isInf_left him hre)

end Sys2Proof.Machine
end

section
/-! The frequency of a bin (40_numerics.md R125; 46_analyzer.md R274, R276, R278). -/

namespace Sys2Proof.Machine

/-- Below `N` the shifted product fits 32 bits, so the frequency is the quotient itself (R125). -/
theorem toNat_frequency {s : State} {i : Nat} (hi : i < s.len) :
    (frequency s i).toNat = i * s.srate.toNat / s.len := by
  have fits : i * s.srate.toNat / s.len < 2 ^ 32 := Nat.div_lt_of_lt_mul (Nat.mul_lt_mul'' hi s.srate.isLt)
  rw [frequency, Nat.shiftRight_eq_div_pow]
  exact Nat.mod_eq_of_lt fits

theorem frequency_mono {s : State} {i j : Nat} (hij : i ≤ j) (hj : j < s.len) :
    (frequency s i).toNat ≤ (frequency s j).toNat := by
  rw [toNat_frequency (hij.trans_lt hj), toNat_frequency hj]
  exact Nat.div_le_div_right (Nat.mul_le_mul_right _ hij)

/-- A bin below `N/2` lies below half the sample rate. -/
theorem two_mul_frequency_lt {s : State} {i : Nat} (hi : 2 * i < s.len) (hr : 0 < s.srate.toNat) :
    2 * (frequency s i).toNat < s.srate.toNat := by
  rw [toNat_frequency (by omega)]
  refine Nat.lt_of_mul_lt_mul_right (a := s.len) ?_
  calc 2 * (i * s.srate.toNat / s.len) * s.len
      = 2 * (i * s.srate.toNat / s.len * s.len) := Nat.mul_assoc _ _ _
    _ ≤ 2 * (i * s.srate.toNat) := Nat.mul_le_mul_left 2 (Nat.div_mul_le_self _ _)
    _ = 2 * i * s.srate.toNat := (Nat.mul_assoc _ _ _).symm
    _ < s.len * s.srate.toNat := Nat.mul_lt_mul_of_pos_right hi hr
    _ = s.srate.toNat * s.len := Nat.mul_comm _ _

theorem frequency_of_srate_zero {s : State} (h : s.srate = 0) (i : Nat) : frequency s i = 0 := by
  simp [frequency, h]

/-- The bin of the document's 2000 Hz example (R278). -/
theorem frequency_example {s : State} (hl : s.log2n = 11) (hr : s.srate = 44100) : frequency s 93 = 2002 := by
  rw [frequency, hl, hr]
  rfl

end Sys2Proof.Machine
end

section
/-! `LIFT` and `MAG` (46_analyzer.md R270, R272). -/

namespace Sys2Proof.Machine

open Sys2Proof.Claims

/-! ### `MAG` -/

theorem exec_mag_of_validLen {s : State} (h : ValidLen s) : exec .mag s = .next (succeed (magEffect s)) :=
  exec_of_passed (checkLength_of_validLen h)

/-- The bins `1 .. N/2-1` lie below `N/2`. -/
theorem two_mul_bin_lt_len {s : State} {i : Nat} (h1 : 1 ≤ i) (hi : i ≤ pts s / 2 - 1) : 2 * i < s.len := by
  rw [← pts_eq_len]
  omega

/-- Pair `i - 1` holds the magnitude of bin `i`. -/
theorem word_mag_of_bin {s : State} {i : Nat} (h1 : 1 ≤ i) (hi : i ≤ pts s / 2 - 1) :
    (succeed (magEffect s)).word .om (i - 1) = magnitudeOf (s.x i) := by
  rw [word_succeed, word_magEffect, ← pts_eq_len, if_pos ⟨rfl, by omega⟩, Nat.sub_add_cancel h1]

/-- Pair `j` holds the frequency of bin `j + 1`. -/
theorem freq_mag_of_pair {s : State} {j : Nat} (hj : j < pts s / 2 - 1) :
    (succeed (magEffect s)).freq j = frequency s (j + 1) := by
  rw [freq_succeed, freq_magEffect, ← pts_eq_len, if_pos hj]

/-! ### Obligations -/

/-- Settles O55: the entries below `N` are written in place. -/
theorem liftMakesComplexSamples : Obligations.LiftMakesComplexSamples := by
  refine ⟨rfl, fun s => ⟨fun h => ⟨_, exec_of_passed (checkLength_of_validLen h), wroteInPlace_putEntries s _ _ _,
    fun i (hi : i < s.len) => ?_⟩, fun h => exec_of_failed (checkLength_of_not_validLen h)⟩⟩
  rw [x_succeed, effectOf, liftEffect, x_putWorking s hi, posZero]

/-- Settles O56: the pairs of the bins are written, and the parts that `MAG` never writes give the frame. -/
theorem magComputesPairs : Obligations.MagComputesPairs := by
  refine ⟨rfl, fun s => ⟨fun h => ⟨_, exec_mag_of_validLen h, rfl, sel_magEffect s, ?_,
    (writesOnly_mag s).registers_eq, fun i h1 hi => ⟨?_, word_mag_of_bin h1 hi⟩, fun n k hk => ?_, fun j hj => ?_⟩,
    fun h => exec_of_failed (checkLength_of_not_validLen h)⟩⟩
  · exact olen_magEffect (len_le_of_validLen ((validLen_iff s).mpr h))
  · have below := two_mul_bin_lt_len h1 hi
    rw [freq_mag_of_pair (by omega), Nat.sub_add_cancel h1, toNat_frequency (by omega), pts_eq_len]
  · rw [word_succeed, word_magEffect, ← pts_eq_len, if_neg hk]
  · rw [freq_succeed, freq_magEffect, ← pts_eq_len, if_neg hj.not_gt]

/-- Settles O57: the square of an infinite part absorbs the other square, and both squares have sign 0. -/
theorem magnitudeSpecialValues : Obligations.MagnitudeSpecialValues := by
  refine fun s h => ⟨_, exec_mag_of_validLen h, rfl, fun i h1 hi => ?_⟩
  rw [word_mag_of_bin h1 hi]
  exact ⟨magnitudeOf_of_isNaN, magnitudeOf_of_isInf, signBit_magnitudeOf _⟩

/-- Settles O58: the bins of the pairs are those below `N/2`. -/
theorem frequenciesAscendBelowNyquist : Obligations.FrequenciesAscendBelowNyquist := by
  refine fun s h => ⟨_, exec_mag_of_validLen h, fun i j hij hj => ?_, fun j hj hr => ?_, fun j hj hr => ?_, fun hl hr => ?_⟩
  · rw [freq_mag_of_pair (hij.trans_lt hj), freq_mag_of_pair hj]
    have below := two_mul_bin_lt_len (Nat.le_add_left 1 j) hj
    exact frequency_mono (by omega) (by omega)
  · rw [freq_mag_of_pair hj]
    exact two_mul_frequency_lt (two_mul_bin_lt_len (Nat.le_add_left 1 j) hj) hr
  · rw [freq_mag_of_pair hj, frequency_of_srate_zero hr]
  · have pair : 92 < pts s / 2 - 1 := by
      rw [pts, hl]
      decide
    rw [freq_mag_of_pair pair, frequency_example hl hr]

end Sys2Proof.Machine
end

section
/-! Control and data: a command writes control registers and `OF` from control registers alone (47_system.md R291); `NOP`
(R290). -/

namespace Sys2Proof.Machine

/-! ### Control -/

/-- A state with the given control registers, and everything else as after reset. -/
def ofControl : Bool × BitVec 4 × BitVec 4 × BitVec 32 × BitVec 14 × BitVec 12 × U32 × U32 × U32 → State
  | (sel, log2n, ylog2n, srate, wlen, olen, arg0, arg1, res) =>
    { State.reset with sel, log2n, ylog2n, srate, wlen, olen, arg0, arg1, res }

/-- The checks read control registers alone. -/
theorem failedCheck_ofControl (i : Instr) (s : State) : failedCheck i (ofControl (Claims.control s)) = failedCheck i s := by
  cases i <;> rfl

theorem failedCheck_of_control_eq {s s' : State} (h : Claims.control s = Claims.control s') (i : Instr) :
    failedCheck i s = failedCheck i s' := by
  rw [← failedCheck_ofControl, h, failedCheck_ofControl]

/-- What two states share in a part when they differ in data only: the control registers among it, and the entries of `OF`. -/
def Part.Agree (s s' : State) : Part → Prop
  | .operands => s.log2n = s'.log2n ∧ s.ylog2n = s'.ylog2n ∧ s.srate = s'.srate ∧ s.arg0 = s'.arg0 ∧ s.arg1 = s'.arg1
  | .wlen => s.wlen = s'.wlen
  | .olen => s.olen = s'.olen
  | .res => s.res = s'.res
  | .freqs => ∀ j, s.freq j = s'.freq j
  | .freeCount | .fr0 | .fr1 | .mem _ => True

theorem control_eq_and_freq_eq_iff (s s' : State) :
    (Claims.control s = Claims.control s' ∧ ∀ j, s.freq j = s'.freq j) ↔ s.sel = s'.sel ∧ ∀ p : Part, p.Agree s s' := by
  constructor
  · rintro ⟨hc, hf⟩
    simp only [Claims.control, Prod.mk.injEq] at hc
    obtain ⟨hsel, hlog, hylog, hsrate, hwlen, holen, harg0, harg1, hres⟩ := hc
    refine ⟨hsel, fun p => ?_⟩
    cases p with
    | operands => exact ⟨hlog, hylog, hsrate, harg0, harg1⟩
    | wlen | olen | res | freqs => assumption
    | _ => trivial
  · rintro ⟨hsel, h⟩
    obtain ⟨hlog, hylog, hsrate, harg0, harg1⟩ := h .operands
    have hwlen : s.wlen = s'.wlen := h .wlen
    have holen : s.olen = s'.olen := h .olen
    have hres : s.res = s'.res := h .res
    exact ⟨by simp only [Claims.control, *], h .freqs⟩

/-- Parts that stay the same go on agreeing. An unwritten word of `OF` reads as the pattern of the last reset, so `freqs` needs
the count of resets too. -/
theorem Part.Agree.of_same {s s' t t' : State} {p : Part} (h : p.Agree s s') (ho : Part.operands.Same s t)
    (ho' : Part.operands.Same s' t') (hp : p.Same s t) (hp' : p.Same s' t') : p.Agree t t' := by
  cases p with
  | operands => simp_all only [Part.Same, Part.Agree, and_self]
  | wlen | olen | res => exact Eq.trans hp (Eq.trans h (Eq.symm hp'))
  | freqs =>
    simp only [Part.Same] at ho ho' hp hp'
    intro j
    simpa only [State.freq, ho, ho', hp, hp'] using h j
  | freeCount | fr0 | fr1 | mem => trivial

/-- Two effects that write the same parts keep the agreement, if what they write agrees. -/
theorem agree_of_writesOnly {ps : List Part} {s s' t t' : State} (h : ∀ p : Part, p.Agree s s') (hw : WritesOnly ps s t)
    (hw' : WritesOnly ps s' t') (ho : Part.operands ∉ ps) (hps : ∀ p ∈ ps, p.Agree t t') (p : Part) : p.Agree t t' := by
  by_cases hp : p ∈ ps
  · exact hps p hp
  · exact (h p).of_same (hw _ ho) (hw' _ ho) (hw p hp) (hw' p hp)

/-- Before its last step `ANALYZE` writes data only (R277). -/
theorem writesOnly_transformed (windowed : Bool) (s : State) :
    WritesOnly (.mem .s :: bufferParts) s (fftEffect (liftEffect (windowEffect windowed s))) := by
  have transform (u : State) : WritesOnly (.mem .s :: bufferParts) u (fftEffect (liftEffect u)) :=
    ((writesOnly_putWorking u _ _).trans (writesOnly_fft _)).mono (by simp)
  cases windowed with
  | false => exact transform s
  | true => exact ((writesOnly_wapply s).mono (by simp)).trans (transform _)

section
variable {s s' : State} (h : ∀ p : Part, p.Agree s s')
include h

/-- The number of pairs and their frequencies come from `LOG2N` and `SRATE` (R272, R274). -/
theorem agree_magEffect (p : Part) : p.Agree (magEffect s) (magEffect s') := by
  obtain ⟨hlog, -, hsrate, -⟩ := h .operands
  have hlen : s.len = s'.len := by rw [State.len, State.len, hlog]
  refine agree_of_writesOnly h (writesOnly_mag s) (writesOnly_mag s') (by simp) ?_ p
  simp only [List.forall_mem_cons, List.not_mem_nil, false_implies, implies_true, and_true]
  refine ⟨?_, trivial, fun j => ?_⟩
  · rw [Part.Agree, magEffect, magEffect, hlen]
  · rw [freq_magEffect, freq_magEffect, hlen, h .freqs j, frequency, frequency, hlog, hsrate]

theorem agree_analyzeEffect (windowed : Bool) (p : Part) : p.Agree (analyzeEffect windowed s) (analyzeEffect windowed s') :=
  agree_magEffect (agree_of_writesOnly h (writesOnly_transformed windowed s) (writesOnly_transformed windowed s') (by simp)
    (by simp [Part.Agree])) p

/-- A part that a command writes is computed from parts that agree, and the others stay. -/
theorem agree_effectOf (i : Instr) (p : Part) : p.Agree (effectOf i s) (effectOf i s') := by
  have spectrum (hi : i = .mag ∨ ∃ a, i = .analyze a) : p.Agree (effectOf i s) (effectOf i s') := by
    obtain rfl | ⟨a, rfl⟩ := hi
    · exact agree_magEffect h p
    · simp only [effectOf]
      rcases a.toNat with _ | _ | n
      · exact agree_analyzeEffect h false p
      · exact agree_analyzeEffect h true p
      · exact h p
  by_cases hw : p.Writer i
  · obtain ⟨-, -, -, harg0, harg1⟩ := h .operands
    cases p with
    | operands => exact hw.elim
    | freeCount | fr0 | fr1 | mem => trivial
    | olen | freqs => exact spectrum hw
    | wlen =>
      obtain ⟨a, rfl⟩ := hw
      simp only [effectOf]
      cases windowKind a with
      | none => exact h .wlen
      | some kind => simp only [Part.Agree, wgenEffect, harg0]
    | res =>
      simp only [Part.Writer, List.mem_cons, List.not_mem_nil, or_false] at hw
      obtain rfl | rfl | rfl | rfl := hw <;>
        simp only [Part.Agree, effectOf, brevEffect, brevnEffect, resolveEffect, asblockEffect, harg0, harg1]
  · exact (h p).of_same (effectOf_same i s _ id) (effectOf_same i s' _ id) (effectOf_same i s p hw) (effectOf_same i s' p hw)

end

/-! ### Obligations -/

/-- Settles O20: the checks read control registers only, the flips are counted by `LOG2N`, and what a command writes of the
control registers and `OF` it computes from the control registers. -/
theorem controlFlowIgnoresData : Obligations.ControlFlowIgnoresData := by
  intro i s s' t t' hc hf ht ht'
  have checks := failedCheck_of_control_eq hc i
  cases passed : failedCheck i s with
  | some e =>
    rw [exec_of_failed passed] at ht
    rw [exec_of_failed (checks.symm.trans passed)] at ht'
    cases ht
    cases ht'
    exact ⟨rfl, hc, hf⟩
  | none =>
    have passed' := checks.symm.trans passed
    rw [exec_of_passed passed] at ht
    rw [exec_of_passed passed'] at ht'
    cases ht
    cases ht'
    obtain ⟨hsel, agree⟩ := (control_eq_and_freq_eq_iff s s').mp ⟨hc, hf⟩
    obtain ⟨hlog, -⟩ := agree .operands
    refine ⟨rfl, (control_eq_and_freq_eq_iff (effectOf i s) (effectOf i s')).mpr ⟨?_, agree_effectOf agree i⟩⟩
    rw [sel_effectOf passed, sel_effectOf passed', hsel, hlog]

/-- Settles O59: `NOP` has no check and no effect, and its word is 0. -/
theorem nopOnlyClearsErr : Obligations.NopOnlyClearsErr := by
  have nop (s : State) : exec .nop s = .next { s with err := .ok } := exec_of_passed rfl
  have word : decode 0x00000000 = .ok .nop := rfl
  refine ⟨fun s => ⟨nop s, ?_⟩, word, ⟨.operandNotZero, rfl⟩, rfl⟩
  exact (step_offer_write_cmd s 0).trans ((runCommand_of_ok word s).trans (nop _))

end Sys2Proof.Machine
end

section
/-! What a command error leaves unchanged (60_exceptions.md R305), and the external reset (70_reset_and_hazards.md R330). -/

namespace Sys2Proof.Machine

/-! ### A command error -/

/-- A command that leaves an error code raised it before any state write: its effect would have ended with `ERR = 0`. -/
theorem exec_error {i : Instr} {s t : State} (h : exec i s = .next t) (herr : t.err ≠ .ok) : t = { s with err := t.err } := by
  obtain ⟨e, -, rfl⟩ | ⟨-, rfl⟩ := exec_cases h
  · rw [raise_err, raise]
  · exact absurd (succeed_err _) herr

theorem runCommand_error {c : BitVec 32} {s t : State} (h : runCommand c s = .next t) (herr : t.err ≠ .ok) :
    t = { s with cmd := c, err := t.err } := by
  cases hd : decode c with
  | ok i =>
    rw [runCommand_of_ok hd] at h
    exact exec_error h herr
  | error e =>
    rw [runCommand_of_error hd] at h
    cases h
    rfl

/-! ### The external reset -/

theorem step_offer_reset (s : State) : step (s.offer .reset) = .next (applyReset s) := rfl

/-- The reset keeps only fields that no register shows, so the registers are those of the reset state (R40). -/
theorem readReg_applyReset (s : State) (r : Reg) : readReg (applyReset s) r = 0 := by
  have same : readReg (applyReset s) r = readReg State.reset r := by cases r <;> rfl
  obtain ⟨zero, -⟩ := resetRegistersZeroAndLengthUnset
  exact same.trans (zero r)

/-- After the reset no word of a memory is written (R41). -/
theorem mem_applyReset (s : State) (n : MemName) : (applyReset s).mem n = [] := by cases n <;> rfl

theorem word_applyReset (s : State) (n : MemName) (k : Nat) : (applyReset s).word n k = Config.powerOn (s.resets + 1) n k := by
  rw [State.word, mem_applyReset]
  rfl

theorem freq_applyReset (s : State) (j : Nat) : (applyReset s).freq j = Config.powerOnOF (s.resets + 1) j := rfl

/-! ### Obligations -/

/-- Settles O16: of the two ways a command ends, only raising leaves an error code, and an illegal word raises too. -/
theorem failedCommandChangesOnlyErr : Obligations.FailedCommandChangesOnlyErr := by
  refine ⟨fun s t c h herr => ?_, fun i s t => exec_error⟩
  rw [step_offer_commandAction] at h
  exact runCommand_error h herr

/-- Settles O9: the step of the reset action is `applyReset`. -/
theorem resetActionFromAnyState : Obligations.ResetActionFromAnyState := fun s =>
  ⟨applyReset s, step_offer_reset s, readReg_applyReset s, word_applyReset s, freq_applyReset s, rfl⟩

end Sys2Proof.Machine
end
